-- ==== Sys2Proof/Word.lean ====
section
/-! DEFINITION. The widths of the block's words (spec/00_scope.md R6, R7, R9). -/

namespace Sys2Proof

/-- One frame byte, one wire byte, one quantized component: Q_W = LEN_W = 8 bits (R6). -/
abbrev Byte := BitVec 8

/-- One component of a RawSample: RAW_W = 16 bits, signed in two's complement (R6, R9). -/
abbrev Half := BitVec 16

/-- A 32-bit quantity: ID_W, CNT_W, COUNT_W and `out.rdata` (R6, R7, R38). -/
abbrev Word := BitVec 32

/-- An event word: EV_W = 64 bits (R7, R70). -/
abbrev EventWord := BitVec 64

end Sys2Proof
end

