-- ==== Sys2Proof/Syntax.lean ====
section
/-! DEFINITION. The operations of the opcode table: nine events and eight reserved opcodes of the 64-bit event
word (spec/30_encoding.md R70 to R78), and the three tagged fields of the outbound message (R79 to R82). -/

namespace Sys2Proof

/-- One constructor per row of spec/opcode_table.json. -/
inductive Instr where
  /-- NOP (R161). -/
  | nop
  /-- BATCH count: `count` is unsigned, 32 bits (R73, R101). -/
  | batch (count : Word)
  /-- SAMPLE x, y, z: each component is signed, 16 bits (R74, R102). -/
  | sample (x y z : Half)
  /-- TXOK (R75, R144). -/
  | txok
  /-- TXFAIL reason: `reason` is unsigned, 8 bits (R75, R145). -/
  | txfail (reason : Byte)
  /-- RDCNT (R163). -/
  | rdcnt
  /-- RDFRM idx: `idx` is unsigned, 8 bits (R76, R164). -/
  | rdfrm (idx : Byte)
  /-- RDSTAT (R165). -/
  | rdstat
  /-- RDTXID (R166). -/
  | rdtxid
  /-- RSVD8, reserved opcode 0x8 (R78, R167). -/
  | rsvd8
  /-- RSVD9, reserved opcode 0x9 (R78, R167). -/
  | rsvd9
  /-- RSVDA, reserved opcode 0xA (R78, R167). -/
  | rsvdA
  /-- RSVDB, reserved opcode 0xB (R78, R167). -/
  | rsvdB
  /-- RSVDC, reserved opcode 0xC (R78, R167). -/
  | rsvdC
  /-- RSVDD, reserved opcode 0xD (R78, R167). -/
  | rsvdD
  /-- RSVDE, reserved opcode 0xE (R78, R167). -/
  | rsvdE
  /-- RSVDF, reserved opcode 0xF (R78, R167). -/
  | rsvdF
  /-- F_TXNID: the transaction-id field of a message on the wire, tag 0x01 and four value bytes (R79, R80, R82). -/
  | fTxnid (id : Word)
  /-- F_LEN: the payload-length field, tag 0x02 and one value byte (R79, R80, R82). -/
  | fLen (len : Byte)
  /-- F_PAYLOAD: the payload field, tag 0x03 and as many value bytes as the length field says (R79, R80, R82). -/
  | fPayload (bytes : List Byte)
  deriving DecidableEq, Repr

/-- The row of spec/opcode_table.json that an instruction belongs to. -/
def Instr.mnemonic : Instr → String
  | .nop => "NOP"
  | .batch _ => "BATCH"
  | .sample _ _ _ => "SAMPLE"
  | .txok => "TXOK"
  | .txfail _ => "TXFAIL"
  | .rdcnt => "RDCNT"
  | .rdfrm _ => "RDFRM"
  | .rdstat => "RDSTAT"
  | .rdtxid => "RDTXID"
  | .rsvd8 => "RSVD8"
  | .rsvd9 => "RSVD9"
  | .rsvdA => "RSVDA"
  | .rsvdB => "RSVDB"
  | .rsvdC => "RSVDC"
  | .rsvdD => "RSVDD"
  | .rsvdE => "RSVDE"
  | .rsvdF => "RSVDF"
  | .fTxnid _ => "F_TXNID"
  | .fLen _ => "F_LEN"
  | .fPayload _ => "F_PAYLOAD"

/-- Whether the instruction is an event of the event port (R70), not a field of the wire format (R79). -/
def Instr.isEvent : Instr → Bool
  | .fTxnid _ | .fLen _ | .fPayload _ => false
  | .nop | .batch _ | .sample _ _ _ | .txok | .txfail _ | .rdcnt | .rdfrm _ | .rdstat | .rdtxid
  | .rsvd8 | .rsvd9 | .rsvdA | .rsvdB | .rsvdC | .rsvdD | .rsvdE | .rsvdF => true

end Sys2Proof
end

