-- ==== Sys2Proof/WellFormed.lean ====
section
/-! DEFINITION. Which terms of `Instr` the block's formats can carry (spec/30_encoding.md R79, R82). The operands
of an event are bit vectors of their field's width, so every event is well formed; a wire field has two limits. -/

namespace Sys2Proof

/-- R79: the identifier is "included only if ≥ 0" (R82: "always >= 0 when present"). -/
abbrev idIncludable (id : Word) : Prop := 0 ≤ id.toInt

/-- R79: the payload length is an "8-bit unsigned count of payload bytes". -/
abbrev payloadCountable (bytes : List Byte) : Prop := bytes.length < 2 ^ 8

/-- A term that stands for an event of R72 or for a field of R79. -/
abbrev Instr.WellFormed : Instr → Prop
  | .fTxnid id => idIncludable id
  | .fPayload bytes => payloadCountable bytes
  | .nop | .batch _ | .sample _ _ _ | .txok | .txfail _ | .rdcnt | .rdfrm _ | .rdstat | .rdtxid
  | .rsvd8 | .rsvd9 | .rsvdA | .rsvdB | .rsvdC | .rsvdD | .rsvdE | .rsvdF | .fLen _ => True

end Sys2Proof
end

