-- ==== Sys2Proof/Decode.lean ====
section
/-! DEFINITION. The decoder and the encoder (spec/30_encoding.md): the event word (R70 to R78) and the tagged fields
of the outbound message (R79 to R83). -/

namespace Sys2Proof

/-- `v[lo+width-1 : lo]` as an unsigned number of `width` bits (R9). -/
def bitField (w : EventWord) (lo width : Nat) : BitVec width := w.extractLsb' lo width

/-- `v` as the field of a word of `width` bits whose lowest bit is bit `lo`, every other bit 0 (R9). -/
def place (width : Nat) (v : BitVec n) (lo : Nat) : BitVec width := v.setWidth width <<< lo

/-- `op = ev[63:60]` (R70). -/
def opcodeOf (w : EventWord) : BitVec 4 := bitField w 60 4

/-- `st = ev[0]` (R75): false for success, true for failure. -/
def statusOf (w : EventWord) : BitVec 1 := bitField w 0 1

/-- `count = ev[31:0]` (R73). -/
def countOf (w : EventWord) : Word := bitField w 0 32

/-- `x = ev[15:0]` (R74). -/
def xOf (w : EventWord) : Half := bitField w 0 16

/-- `y = ev[31:16]` (R74). -/
def yOf (w : EventWord) : Half := bitField w 16 16

/-- `z = ev[47:32]` (R74). -/
def zOf (w : EventWord) : Half := bitField w 32 16

/-- `reason = ev[15:8]` (R75). -/
def reasonOf (w : EventWord) : Byte := bitField w 8 8

/-- `idx = ev[7:0]` (R76). -/
def idxOf (w : EventWord) : Byte := bitField w 0 8

/-- The opcode map R72. Total: every 64-bit word is exactly one event (R70), and the bits that the selected format
does not list are not looked at (R77). The last arm is opcode 0xF alone. -/
def decodeEvent (w : EventWord) : Instr :=
  match opcodeOf w with
  | 0x0#4 => .nop
  | 0x1#4 => .batch (countOf w)
  | 0x2#4 => .sample (xOf w) (yOf w) (zOf w)
  | 0x3#4 => if statusOf w = 0#1 then .txok else .txfail (reasonOf w)
  | 0x4#4 => .rdcnt
  | 0x5#4 => .rdfrm (idxOf w)
  | 0x6#4 => .rdstat
  | 0x7#4 => .rdtxid
  | 0x8#4 => .rsvd8
  | 0x9#4 => .rsvd9
  | 0xA#4 => .rsvdA
  | 0xB#4 => .rsvdB
  | 0xC#4 => .rsvdC
  | 0xD#4 => .rsvdD
  | 0xE#4 => .rsvdE
  | _ => .rsvdF

/-- TAG_ID (R6, R79). -/
def tagId : Byte := 0x01

/-- TAG_LEN (R6, R79). -/
def tagLen : Byte := 0x02

/-- TAG_PAYLOAD (R6, R79). -/
def tagPayload : Byte := 0x03

/-- The four bytes of a 32-bit value, least significant byte first (R53, R80). -/
def littleEndianBytes (v : Word) : List Byte :=
  [v.extractLsb' 0 8, v.extractLsb' 8 8, v.extractLsb' 16 8, v.extractLsb' 24 8]

/-- The 32-bit value of four bytes that stand least significant first (R53, R82). -/
def littleEndianWord (b0 b1 b2 b3 : Byte) : Word :=
  place 32 b0 0 ||| place 32 b1 8 ||| place 32 b2 16 ||| place 32 b3 24

/-- What a decoder makes of the bits it is given. -/
inductive Decoded where
  /-- An instruction, and the bytes that follow it. -/
  | instr (i : Instr) (rest : List Byte)
  /-- A wire field whose bytes have not all arrived (nothing at all, or a tag without its whole value). -/
  | incomplete
  /-- A tag byte that the block never produces (R82). -/
  | unknownTag (tag : Byte)
  deriving DecidableEq, Repr

/-- One field off the front of a serialised message, as the receiver of R82 reads it. `len` is the value of the
length field already read, which "precedes" the payload (R80) and alone says how long it is. -/
def decodeField (len : Nat) : List Byte → Decoded
  | [] => .incomplete
  | tag :: value =>
    if tag = tagId then
      match value with
      | b0 :: b1 :: b2 :: b3 :: rest => .instr (.fTxnid (littleEndianWord b0 b1 b2 b3)) rest
      | _ => .incomplete
    else if tag = tagLen then
      match value with
      | n :: rest => .instr (.fLen n) rest
      | [] => .incomplete
    else if tag = tagPayload then
      if len ≤ value.length then .instr (.fPayload (value.take len)) (value.drop len) else .incomplete
    else .unknownTag tag

/-- The two forms in which an instruction is stored: an event word on the event port (R70), or the bytes of a field
of the outbound message (R80). -/
inductive Encoding where
  | event (w : EventWord)
  | wire (bytes : List Byte)
  deriving DecidableEq, Repr

/-- The decoder of both forms. `len` matters to a payload field alone. -/
def decode (len : Nat) : Encoding → Decoded
  | .event w => .instr (decodeEvent w) []
  | .wire bytes => decodeField len bytes

/-- An event word with the opcode in `ev[63:60]` and every other bit 0. -/
def opcodeWord (op : BitVec 4) : EventWord := place 64 op 60

/-- The event word of an event, reserved bits 0 as R84's assembler writes them; R71 and R72 give the places. A wire
field has no event word. -/
def encodeEvent : Instr → Option EventWord
  | .nop => some (opcodeWord 0x0)
  | .batch count => some (opcodeWord 0x1 ||| place 64 count 0)
  | .sample x y z => some (opcodeWord 0x2 ||| place 64 z 32 ||| place 64 y 16 ||| place 64 x 0)
  | .txok => some (opcodeWord 0x3 ||| place 64 0#1 0)
  | .txfail reason => some (opcodeWord 0x3 ||| place 64 reason 8 ||| place 64 1#1 0)
  | .rdcnt => some (opcodeWord 0x4)
  | .rdfrm idx => some (opcodeWord 0x5 ||| place 64 idx 0)
  | .rdstat => some (opcodeWord 0x6)
  | .rdtxid => some (opcodeWord 0x7)
  | .rsvd8 => some (opcodeWord 0x8)
  | .rsvd9 => some (opcodeWord 0x9)
  | .rsvdA => some (opcodeWord 0xA)
  | .rsvdB => some (opcodeWord 0xB)
  | .rsvdC => some (opcodeWord 0xC)
  | .rsvdD => some (opcodeWord 0xD)
  | .rsvdE => some (opcodeWord 0xE)
  | .rsvdF => some (opcodeWord 0xF)
  | .fTxnid _ | .fLen _ | .fPayload _ => none

/-- The bytes of a field of the outbound message: its tag byte, then its value (R80). An event has none. -/
def encodeField : Instr → List Byte
  | .fTxnid id => tagId :: littleEndianBytes id
  | .fLen len => [tagLen, len]
  | .fPayload bytes => tagPayload :: bytes
  | .nop | .batch _ | .sample _ _ _ | .txok | .txfail _ | .rdcnt | .rdfrm _ | .rdstat | .rdtxid
  | .rsvd8 | .rsvd9 | .rsvdA | .rsvdB | .rsvdC | .rsvdD | .rsvdE | .rsvdF => []

/-- The stored form of an instruction. -/
def encode (i : Instr) : Encoding :=
  match encodeEvent i with
  | some w => .event w
  | none => .wire (encodeField i)

/-- The length that the decoder must know before it meets `i` (R82): a payload's own length, nothing otherwise. -/
def lengthBefore : Instr → Nat
  | .fPayload bytes => bytes.length
  | .nop | .batch _ | .sample _ _ _ | .txok | .txfail _ | .rdcnt | .rdfrm _ | .rdstat | .rdtxid
  | .rsvd8 | .rsvd9 | .rsvdA | .rsvdB | .rsvdC | .rsvdD | .rsvdE | .rsvdF | .fTxnid _ | .fLen _ => 0

/-- The bits of the event word that an event's format lists (R71); every other bit of the word is reserved (R77). A
wire field has no event word. -/
def formatBits : Instr → EventWord
  | .batch _ => 0xF0000000FFFFFFFF
  | .sample _ _ _ => 0xF000FFFFFFFFFFFF
  | .txok => 0xF000000000000001
  | .txfail _ => 0xF00000000000FF01
  | .rdfrm _ => 0xF0000000000000FF
  | .nop | .rdcnt | .rdstat | .rdtxid | .rsvd8 | .rsvd9 | .rsvdA | .rsvdB | .rsvdC | .rsvdD | .rsvdE
  | .rsvdF => 0xF000000000000000
  | .fTxnid _ | .fLen _ | .fPayload _ => 0

/-- A row of the opcode map: a word `w` selects the row when `(w & mask) = match` (R72). -/
structure OpcodeRow where
  mnemonic : String
  mask : EventWord
  pattern : EventWord
  deriving DecidableEq, Repr

/-- Whether the event word `w` selects the row (R72). -/
abbrev OpcodeRow.Selects (r : OpcodeRow) (w : EventWord) : Prop := w &&& r.mask = r.pattern

/-- R72's map in the rows of spec/opcode_table.json, with the reserved opcodes as eight rows. -/
def opcodeMap : List OpcodeRow :=
  [⟨"NOP", 0xF000000000000000, 0x0000000000000000⟩,
   ⟨"BATCH", 0xF000000000000000, 0x1000000000000000⟩,
   ⟨"SAMPLE", 0xF000000000000000, 0x2000000000000000⟩,
   ⟨"TXOK", 0xF000000000000001, 0x3000000000000000⟩,
   ⟨"TXFAIL", 0xF000000000000001, 0x3000000000000001⟩,
   ⟨"RDCNT", 0xF000000000000000, 0x4000000000000000⟩,
   ⟨"RDFRM", 0xF000000000000000, 0x5000000000000000⟩,
   ⟨"RDSTAT", 0xF000000000000000, 0x6000000000000000⟩,
   ⟨"RDTXID", 0xF000000000000000, 0x7000000000000000⟩,
   ⟨"RSVD8", 0xF000000000000000, 0x8000000000000000⟩,
   ⟨"RSVD9", 0xF000000000000000, 0x9000000000000000⟩,
   ⟨"RSVDA", 0xF000000000000000, 0xA000000000000000⟩,
   ⟨"RSVDB", 0xF000000000000000, 0xB000000000000000⟩,
   ⟨"RSVDC", 0xF000000000000000, 0xC000000000000000⟩,
   ⟨"RSVDD", 0xF000000000000000, 0xD000000000000000⟩,
   ⟨"RSVDE", 0xF000000000000000, 0xE000000000000000⟩,
   ⟨"RSVDF", 0xF000000000000000, 0xF000000000000000⟩]

/-- The most value bytes that a field can have when no length field has been read: the id's four (R80). -/
def longestValue : Nat := 4

/-- Whether a table row of `nbits` bits is a tag byte of the wire format; the other rows are event words. -/
def isTagWidth (nbits : Nat) : Bool := nbits == 8

/-- A tag byte and the zero bytes after it. -/
def zeroField (w zeros : Nat) : List Byte := BitVec.ofNat 8 w :: List.replicate zeros 0

/-- The instruction the decoder reads from a row of the opcode table whose bits are `w`: an event word, or a tag byte
with value bytes of zero, as many as the longest field has when no length field has been read. -/
def decodeTableWord (nbits w : Nat) : Option Instr :=
  let stored : Encoding :=
    if isTagWidth nbits then .wire (zeroField w longestValue) else .event (BitVec.ofNat 64 w)
  match decode 0 stored with
  | .instr i _ => some i
  | .incomplete => none
  | .unknownTag _ => none

end Sys2Proof
end

