-- ==== Sys2Proof/Config.lean ====
section
/-! DEFINITION. The parameters of the block (spec/00_scope.md R6 to R8): fixed for the life of a block, open
in the spec, so an argument of the model. `Machine.State` carries one `Params` that no step changes. -/

namespace Sys2Proof

/-- The parameters that R7 leaves open: SAMPLE_RATE, SHIFT and ACC_W. -/
structure Params where
  /-- SAMPLE_RATE, legal range 1 .. 85 (R7, R8). -/
  sampleRate : Nat
  /-- SHIFT, the quantizer's right shift, legal range 0 .. ACC_W - 9 (R7). -/
  shift : Nat
  /-- ACC_W, the width of a FilteredSample component, at least 17 (R7). -/
  accW : Nat
  deriving DecidableEq, Repr

/-- NAXES = 3: the components of a sample (R6). -/
def numAxes : Nat := 3

/-- CAP = SAMPLE_RATE x 3, the frame capacity in bytes (R7). -/
def Params.cap (p : Params) : Nat := p.sampleRate * numAxes

/-- The configurations for which a hardware of the spec exists (R7, R8; 93_implementation_defined.md U12). -/
abbrev Params.Legal (p : Params) : Prop :=
  1 ≤ p.sampleRate ∧ p.sampleRate ≤ 85 ∧ 17 ≤ p.accW ∧ p.shift + 9 ≤ p.accW

/-- The reference configuration of R7: SAMPLE_RATE = 20 (CAP = 60), SHIFT = 4, ACC_W = 32. -/
def Params.reference : Params := { sampleRate := 20, shift := 4, accW := 32 }

end Sys2Proof
end

