-- ==== Sys2Proof/Machine/State.lean ====
section
/-! DEFINITION. The state of the machine (spec/10_state.md), the reasons for which a step can stop, and reset. -/

namespace Sys2Proof.Machine

/-- RawSample: "{x, y, z: signed 16-bit}" (R21, R74). -/
structure RawSample where
  x : Half
  y : Half
  z : Half
  deriving DecidableEq, Repr

/-- `win[0..4]`, the general data registers of the block (R20, R21). -/
structure Window where
  s0 : RawSample
  s1 : RawSample
  s2 : RawSample
  s3 : RawSample
  s4 : RawSample
  deriving DecidableEq, Repr

/-- The abstract message of R38, R79 and R142; an absent id is `none`. -/
structure Message where
  id : Option Word
  len : Byte
  payload : List Byte
  deriving DecidableEq, Repr

/-- The outputs of a step (R38). -/
structure Outputs where
  frameFull : Bool
  txValid : Bool
  txMsg : Message
  rdValid : Bool
  rdata : Word
  deriving DecidableEq, Repr

/-- The environment's levels (R36). `tsIn` is read by no rule. -/
structure Env where
  txReady : Bool
  /-- Signed; a negative value means no id (R36). -/
  txnIdIn : Word
  tsIn : BitVec 64
  deriving DecidableEq, Repr

/-- The input ports: `rst` (R37), `ev_valid` and `ev[63:0]` (R35), and the levels (R36). -/
structure Port where
  rst : Bool
  evValid : Bool
  ev : EventWord
  env : Env
  deriving DecidableEq, Repr

/-- What the outside presents for one step: the ports, and the message bytes that reach the receiver then. -/
structure Cycle where
  port : Port
  wire : List Byte
  deriving DecidableEq, Repr

/-- The receiver of a serialised message (R82), which is not part of the block: the bytes that have reached it and
are not read yet, and what it has read of a message. -/
structure Receiver where
  stream : List Byte
  id : Option Word
  len : Byte
  payload : List Byte
  /-- The payload field has been read: the receiver has "stop"ped on this message (R82). -/
  complete : Bool
  deriving DecidableEq, Repr

/-- The Frame's bytes (R26, R50), sparse: an address that is not listed reads as `unlistedByte`. The canonical form
is `Memory.wf` (Ops.lean). -/
abbrev Memory := List Host.Cell

/-- R34, D16: every byte of the frame is 0 after reset, and that is what an unlisted address reads as (log 17). -/
def unlistedByte : Byte := 0

/-- Why the machine stops on an access. -/
inductive Fault where
  /-- Raised by APPEND when one of its three addresses is outside `0..CAP-1` (R51: `MemWrite` is defined only inside;
  F_OVERRUN of R181). "Structurally impossible": no state that meets `State.Inv` raises it. Safe (log 14). -/
  | frameOverrun
  deriving DecidableEq, Repr

/-- Why the machine has no meaning for a step. -/
inductive Refusal where
  /-- An instruction whose meaning is not written. No arm of `exec` answers it. Safe. -/
  | notModelled (mnemonic : String)
  /-- Raised by `step` for parameters outside R7 and R8: "no hardware of this spec exists for them" (U12). Safe (log 10). -/
  | illegalParameters
  deriving DecidableEq, Repr

/-- Everything the machine holds: the block's state `S` of R20, its parameters, the outputs of the latest step, its
inputs, and the receiver of R82. -/
structure State where
  /-- The configuration (R7); no step changes it (log 10). -/
  params : Params
  /-- `win[0..4]` (R21). -/
  win : Window
  /-- `phase`, unsigned, value 0..4 (R20, R22; log 16). -/
  phase : Fin 5
  /-- `rem`, unsigned 32 bits (R22). -/
  rem : Word
  /-- `frame[0..CAP-1]` (R26). -/
  frame : Memory
  /-- `cursor`, unsigned 8 bits (R27). -/
  cursor : Byte
  /-- `byte_count`, unsigned 32 bits (R28). -/
  byteCount : Word
  /-- `pending` (R24, R29). -/
  pending : Bool
  /-- `cur_id`, signed 32 bits, -1 for absent (R29). -/
  curId : Word
  /-- The outputs of the latest step (R38): functions of that step, kept so that they can be observed (log 11). -/
  out : Outputs
  /-- What the input ports show now (R35 to R37). -/
  port : Port
  /-- What the outside presents in the steps to come, the next one first (log 3). -/
  upcoming : List Cycle
  /-- The receiver of R82 (log 18). -/
  rx : Receiver
  deriving DecidableEq, Repr

/-- "absent" in `cur_id`: -1, 0xFFFFFFFF (R29). -/
def absentId : Word := 0xFFFFFFFF

/-- A RawSample of zeros. -/
def RawSample.zero : RawSample := { x := 0, y := 0, z := 0 }

/-- The window's value at reset. DESIGN CHOICE (log 1): R34 gives none. Unsafe. -/
def Window.atReset : Window :=
  { s0 := .zero, s1 := .zero, s2 := .zero, s3 := .zero, s4 := .zero }

/-- No message: "0 / empty" (R38). -/
def Message.empty : Message := { id := none, len := 0, payload := [] }

/-- "Every field is 0 / empty unless the step's rule sets it" (R38). -/
def Outputs.zero : Outputs :=
  { frameFull := false, txValid := false, txMsg := .empty, rdValid := false, rdata := 0 }

/-- The levels at reset. DESIGN CHOICE (log 2): the spec leaves them free. -/
def Env.atReset : Env := { txReady := false, txnIdIn := 0, tsIn := 0 }

/-- Ports on which no event is presented (R35, `ev_valid = 0`) and `rst` is not asserted. -/
def Port.quiet (env : Env) : Port := { rst := false, evValid := false, ev := 0, env := env }

/-- A receiver that has read nothing of a message. DESIGN CHOICE (log 6) for `len`, which R82 reads only after it has
been written. -/
def Receiver.idle (stream : List Byte) : Receiver :=
  { stream := stream, id := none, len := 0, payload := [], complete := false }

/-- The machine right after reset (R34, R200): the spec's value for every field it gives one, no input presented. -/
def State.reset : State :=
  { params := .reference
    win := .atReset
    phase := 0
    rem := 0
    frame := []
    cursor := 0
    byteCount := 0
    pending := false
    curId := absentId
    out := .zero
    port := .quiet .atReset
    upcoming := []
    rx := .idle [] }

end Sys2Proof.Machine
end

