-- ==== Sys2Proof/Machine/Ops.lean ====
section
/-! DEFINITION. The shared operations over the frame, the window, the outputs, the inputs and the receiver
(spec/10_state.md, spec/20_memory.md), and reset as a transition. There is no exception entry and no return from one:
the block "raises no exception and takes no trap" (R180, R187, R188). -/

namespace Sys2Proof.Machine

/-- What the reasons of this machine make of a step's outcome. -/
abbrev Outcome := Host.Outcome State Fault Refusal

/-- `f` of the next state, where there is one. -/
def mapNext (f : State → State) : Outcome → Outcome
  | .next s => .next (f s)
  | .fault r => .fault r
  | .refused r => .refused r

/-- CAP of the state's configuration (R7). -/
def State.cap (s : State) : Nat := s.params.cap

/-! ### The frame (R50, R51) -/

/-- The byte at an address. -/
def Memory.read : Memory → Nat → Byte
  | [], _ => unlistedByte
  | (a, v) :: m, k => if a = k then v else Memory.read m k

/-- A cell in front of a memory, unless it reads as an unlisted address does. -/
def Memory.consCell (a : Nat) (v : Byte) (m : Memory) : Memory :=
  if v = unlistedByte then m else (a, v) :: m

/-- Store one byte, keeping the canonical form. -/
def Memory.write : Memory → Nat → Byte → Memory
  | [], k, v => Memory.consCell k v []
  | (a, w) :: m, k, v =>
    if k < a then Memory.consCell k v ((a, w) :: m)
    else if k = a then Memory.consCell k v m
    else (a, w) :: Memory.write m k v

/-- The canonical form: addresses strictly rising, no entry equal to what an unlisted address reads as. -/
abbrev Memory.wf (m : Memory) : Prop :=
  m.Pairwise (fun c d => c.1 < d.1) ∧ ∀ c ∈ m, c.2 ≠ unlistedByte

/-- Every listed address is in the address space `0..cap-1` (R50). -/
abbrev Memory.within (cap : Nat) (m : Memory) : Prop := ∀ c ∈ m, c.1 < cap

/-- `MemRead(addr, 1)`, defined only for `0 <= addr < CAP` (R51). -/
def memRead (a : Nat) (s : State) : Option Byte :=
  if a < s.cap then some (s.frame.read a) else none

/-- `MemWrite(addr, 1, v)`, defined only for `0 <= addr < CAP` (R51). -/
def memWrite (a : Nat) (v : Byte) (s : State) : Option State :=
  if a < s.cap then some { s with frame := s.frame.write a v } else none

/-- The whole frame, `frame[0..CAP-1]` in ascending order (R67 (c)). -/
def frameBytes (s : State) : List Byte := (List.range s.cap).map s.frame.read

/-! ### The window and the batch bookkeeping (R21, R22) -/

/-- `win[p]`. -/
def Window.get (w : Window) (p : Fin 5) : RawSample :=
  match p with
  | 0 => w.s0
  | 1 => w.s1
  | 2 => w.s2
  | 3 => w.s3
  | 4 => w.s4

/-- `win[p] <- v`. -/
def Window.set (w : Window) (p : Fin 5) (v : RawSample) : Window :=
  match p with
  | 0 => { w with s0 := v }
  | 1 => { w with s1 := v }
  | 2 => { w with s2 := v }
  | 3 => { w with s3 := v }
  | 4 => { w with s4 := v }

/-- The place after `p` in a block; 4 wraps to 0 (R102). -/
def nextPhase (p : Fin 5) : Fin 5 :=
  match p with
  | 0 => 1
  | 1 => 2
  | 2 => 3
  | 3 => 4
  | 4 => 0

/-- BATCH's writes (R101). -/
def State.openBatch (count : Word) (s : State) : State := { s with rem := count, phase := 0 }

/-- The writes of an accepted SAMPLE before its block is looked at (R102): `rem`, `win[phase]`, `phase`. -/
def State.takeSample (v : RawSample) (s : State) : State :=
  { s with rem := s.rem - 1, win := s.win.set s.phase v, phase := nextPhase s.phase }

/-! ### Outputs (R38) and diagnostic answers (R162) -/

/-- "out <- all fields 0 / empty", with which every step begins (R160). -/
def State.quiet (s : State) : State := { s with out := .zero }

/-- The answer of a diagnostic read: `rd_valid`, `rdata`, every other output 0, no state change (R162). -/
def State.answer (data : Word) (s : State) : State :=
  { s with out := { Outputs.zero with rdValid := true, rdata := data } }

/-! ### Reset (R37, R200) -/

/-- Reset as a transition "available in every state": the block's fields at their reset values and every output 0.
The inputs, the configuration and the receiver are outside the block and are not told (R202; DEDUCED, log 13). -/
def State.applyReset (s : State) : State :=
  { State.reset with params := s.params, port := s.port, upcoming := s.upcoming, rx := s.rx }

/-! ### Inputs -/

/-- The next step's inputs: the next cycle the outside presents, or, when none is listed, the same levels and no
event (DESIGN CHOICE, log 4). Message bytes that arrive join the receiver's stream. -/
def State.advance (s : State) : State :=
  match s.upcoming with
  | [] => { s with port := .quiet s.port.env }
  | c :: cs => { s with port := c.port, upcoming := cs, rx := { s.rx with stream := s.rx.stream ++ c.wire } }

/-! ### The receiver (R82) -/

/-- What the receiver has read of the message whose next field it meets: after a complete message, nothing
(DEDUCED, log 7). -/
def Receiver.current (r : Receiver) : Receiver := if r.complete then .idle r.stream else r

/-- The bytes the receiver has read are gone from its stream. -/
def State.consume (rest : List Byte) (s : State) : State :=
  { s with rx := { s.rx with stream := rest } }

/-- What the receiver has read, as the abstract message of R79. -/
def Receiver.message (r : Receiver) : Message := { id := r.id, len := r.len, payload := r.payload }

/-! ### What the next step runs -/

/-- What stands where the next step looks for its instruction. -/
inductive Fetched where
  /-- `rst = 1`: "events are not consumed" (R37). -/
  | reset
  /-- The event on the event port (R35). -/
  | event (i : Instr)
  /-- No event for the block; the receiver has a whole field. -/
  | field (i : Instr) (rest : List Byte)
  /-- No event for the block, and no field that the receiver can read: it has nothing, waits for the rest of a field, or
  stands at a byte that is no tag. -/
  | wait
  deriving DecidableEq, Repr

/-- Reset before the event port (R37; DEDUCED, log 12), the event port before the receiver (DESIGN CHOICE, log 5). A
field that has not wholly arrived is waited for (DEDUCED, log 8). At a byte that is no tag the receiver reads nothing
more (DESIGN CHOICE, log 9), and the block goes on (R35). -/
def fetch (s : State) : Fetched :=
  if s.port.rst then .reset
  else if s.port.evValid then .event (decodeEvent s.port.ev)
  else
    match decodeField s.rx.current.len.toNat s.rx.stream with
    | .instr i rest => .field i rest
    | .incomplete => .wait
    | .unknownTag _ => .wait

/-- How many value bytes follow a tag byte, given the length field already read (R80). -/
def valueBytes (tag : Byte) (len : Nat) : Nat :=
  if tag = tagId then 4 else if tag = tagLen then 1 else if tag = tagPayload then len else 0

/-- The event word `w` on the event port, `rst` not asserted. -/
def State.presentEvent (w : EventWord) (s : State) : State :=
  { s with port := { s.port with rst := false, evValid := true, ev := w } }

/-- One wire field, a tag byte with value bytes of zero, as the receiver's whole stream, no
event, `rst` not asserted (DESIGN CHOICE, log 20). -/
def State.presentTag (w : Nat) (s : State) : State :=
  { s with
    port := { s.port with rst := false, evValid := false }
    rx := { s.rx with
      stream := zeroField w (valueBytes (BitVec.ofNat 8 w) s.rx.current.len.toNat) } }

end Sys2Proof.Machine
end

