-- ==== Sys2Proof/Machine/Flags.lean ====
section
/-! DEFINITION. The flags (spec/10_state.md R24, R29, R30): full, id present, and the STATUS view. There are no
arithmetic condition codes (R24). -/

namespace Sys2Proof.Machine

/-- Whether a signed 32-bit id is present: `id >= 0` (R29, R79). -/
def idPresent (id : Word) : Bool := decide (0 ≤ id.toInt)

/-- The id a successful begin latches: `env.txn_id_in if env.txn_id_in >= 0 else -1` (R141). -/
def latchedId (txnIdIn : Word) : Word := if idPresent txnIdIn then txnIdIn else absentId

/-- The id of a message: `env.txn_id_in if env.txn_id_in >= 0 else absent` (R142). -/
def messageId (txnIdIn : Word) : Option Word := if idPresent txnIdIn then some txnIdIn else none

/-- APPEND's full signal: the cursor has reached CAP (R131). -/
def reachesCap (c : Nat) (s : State) : Bool := c == s.cap

/-- STATUS: `{13 zero bits, phase[2:0], cursor[7:0], 6 zero bits, id present, pending}` (R30, R165). -/
def statusWord (s : State) : Word :=
  place 32 (BitVec.ofNat 3 s.phase.val) 16 ||| place 32 s.cursor 8
    ||| place 32 (BitVec.ofBool (idPresent s.curId)) 1 ||| place 32 (BitVec.ofBool s.pending) 0

/-- The begin would succeed now: no transaction is outstanding and the channel is ready (R141). -/
def beginSucceeds (s : State) : Bool := !s.pending && s.port.env.txReady

end Sys2Proof.Machine
end

