-- ==== Sys2Proof/Machine/Diag.lean ====
section
/-! DEFINITION. NOP, the four diagnostic reads and the reserved opcodes (spec/44_controller_diag.md R161 to R167). -/

namespace Sys2Proof.Machine

/-- NOP (R161): nothing; all outputs 0. -/
def execNop (s : State) : Outcome := .next s.quiet

/-- RDCNT (R163). -/
def execRdcnt (s : State) : Outcome := .next (s.answer s.byteCount)

/-- FRAME[idx] (R30, R164): the byte zero-extended to 32 bits; 0 for `idx >= CAP`, which is not an error. -/
def frameView (idx : Byte) (s : State) : Word :=
  match memRead idx.toNat s with
  | some b => b.setWidth 32
  | none => 0

/-- RDFRM idx (R164). -/
def execRdfrm (idx : Byte) (s : State) : Outcome := .next (s.answer (frameView idx s))

/-- RDSTAT (R165). -/
def execRdstat (s : State) : Outcome := .next (s.answer (statusWord s))

/-- RDTXID (R166). -/
def execRdtxid (s : State) : Outcome := .next (s.answer s.curId)

/-- A reserved opcode: "Pseudocode: nothing. State written: none. Outputs: all 0" (R167). -/
def reservedNoOp (s : State) : Outcome := .next s.quiet

/-- RSVD8, opcode 0x8 (R167). -/
def execRsvd8 (s : State) : Outcome := reservedNoOp s

/-- RSVD9, opcode 0x9 (R167). -/
def execRsvd9 (s : State) : Outcome := reservedNoOp s

/-- RSVDA, opcode 0xA (R167). -/
def execRsvdA (s : State) : Outcome := reservedNoOp s

/-- RSVDB, opcode 0xB (R167). -/
def execRsvdB (s : State) : Outcome := reservedNoOp s

/-- RSVDC, opcode 0xC (R167). -/
def execRsvdC (s : State) : Outcome := reservedNoOp s

/-- RSVDD, opcode 0xD (R167). -/
def execRsvdD (s : State) : Outcome := reservedNoOp s

/-- RSVDE, opcode 0xE (R167). -/
def execRsvdE (s : State) : Outcome := reservedNoOp s

/-- RSVDF, opcode 0xF (R167). -/
def execRsvdF (s : State) : Outcome := reservedNoOp s

end Sys2Proof.Machine
end

