-- ==== Sys2Proof/Machine/Operands.lean ====
section
/-! DEFINITION. The arithmetic of operands (spec/00_scope.md R9, R10): arithmetic right shift, clamp, sign extension
and narrowing. Rules compute "over the mathematical integers unless a width is named". -/

namespace Sys2Proof.Machine

/-- `a >> k`, the arithmetic right shift: `floor(a / 2^k)`, toward minus infinity (R10, D20). Integer division by a
positive divisor floors. -/
def asr (a : Int) (k : Nat) : Int := a / 2 ^ k

/-- `c << k = c * 2^k` (R10). -/
def shl (c : Int) (k : Nat) : Int := c * 2 ^ k

/-- `clamp(v, lo, hi)` (R10). -/
def clamp (v lo hi : Int) : Int := if v < lo then lo else if hi < v then hi else v

/-- `sext_16` of a raw component: the signed number its pattern denotes (R9, R74). -/
def sext16 (v : Half) : Int := v.toInt

/-- The signed 8-bit number of a frame byte's pattern (R9, R53). -/
def sext8 (v : Byte) : Int := v.toInt

/-- `v & 0xFF` for an integer (R10: the floor modulus), as a byte: "mask to 8 bits, reinterpreted as signed" (R120). -/
def maskByte (v : Int) : Byte := BitVec.ofInt 8 (v % 256)

/-- The signed number that the low `width` bits of `v` denote: a register of ACC_W bits (R25). For a legal ACC_W it
changes no filter result (R108). The wrap at a narrower width is the model's (DEDUCED, log 15). -/
def narrowSigned (width : Nat) (v : Int) : Int := v.bmod (2 ^ width)

end Sys2Proof.Machine
end

