-- ==== Sys2Proof/Machine/Filter.lean ====
section
/-! DEFINITION. FIR5 and QUANT, the block's arithmetic (spec/40_filter.md R103 to R108, spec/41_quantizer.md R120). -/

namespace Sys2Proof.Machine

/-- FilteredSample: three signed ACC_W-bit values, "not persisted" (R25). -/
structure FilteredSample where
  x : Int
  y : Int
  z : Int
  deriving DecidableEq, Repr

/-- QuantizedSample: three signed 8-bit values (R125). -/
structure QuantizedSample where
  x : Byte
  y : Byte
  z : Byte
  deriving DecidableEq, Repr

/-- TAP_SHIFT: 5, 2, 1, 2, 5 (R7). -/
def tapShift (tap : Fin 5) : Nat :=
  match tap with
  | 0 => 5
  | 1 => 2
  | 2 => 1
  | 3 => 2
  | 4 => 5

/-- CORR_SHIFT = 5, the "finer shift" subtracted at taps 1 and 3 (R7, R107). -/
def corrShift : Nat := 5

/-- FIR5 on one lane, exactly (R104). -/
def firSum (s0 s1 s2 s3 s4 : Int) : Int :=
  asr s0 (tapShift 0)
    + asr s1 (tapShift 1) - asr s1 corrShift
    + asr s2 (tapShift 2)
    + asr s3 (tapShift 3) - asr s3 corrShift
    + asr s4 (tapShift 4)

/-- One lane of FIR5: the lane's five samples, oldest first, summed into an ACC_W-bit value (R103, R104). -/
def firLane (accW : Nat) (lane : RawSample → Half) (w : Window) : Int :=
  narrowSigned accW
    (firSum (sext16 (lane w.s0)) (sext16 (lane w.s1)) (sext16 (lane w.s2)) (sext16 (lane w.s3))
      (sext16 (lane w.s4)))

/-- FIR5(win) -> (fx, fy, fz): three independent lanes (R103, R104). -/
def fir5 (accW : Nat) (w : Window) : FilteredSample :=
  { x := firLane accW RawSample.x w, y := firLane accW RawSample.y w, z := firLane accW RawSample.z w }

/-- QUANT(v) -> q (R120). -/
def quant (shift : Nat) (v : Int) : Byte :=
  if v > shl 127 shift then BitVec.ofInt 8 127
  else if v < shl (-128) shift then BitVec.ofInt 8 (-128)
  else maskByte (asr v shift)

/-- QUANT of each lane (R102). -/
def quantize (shift : Nat) (f : FilteredSample) : QuantizedSample :=
  { x := quant shift f.x, y := quant shift f.y, z := quant shift f.z }

/-- The QuantizedSample of the block that the window holds (R102). -/
def blockOutput (s : State) : QuantizedSample := quantize s.params.shift (fir5 s.params.accW s.win)

end Sys2Proof.Machine
end

