-- ==== Sys2Proof/Machine/FrameBuffer.lean ====
section
/-! DEFINITION. APPEND, the ring accumulator with its full signal (spec/42_frame_buffer.md R130, R131). -/

namespace Sys2Proof.Machine

/-- APPEND, part 1: three bytes at `cursor`, `cursor+1`, `cursor+2` (R130). `none`: an address outside the frame. -/
def storeTriplet (q : QuantizedSample) (s : State) : Option State :=
  match memWrite s.cursor.toNat q.x s with
  | none => none
  | some s1 =>
    match memWrite (s.cursor.toNat + 1) q.y s1 with
    | none => none
    | some s2 => memWrite (s.cursor.toNat + 2) q.z s2

/-- APPEND, part 2: cursor, counter and the full signal (R131). -/
def advanceCursor (s : State) : State :=
  let c := s.cursor.toNat + numAxes
  if reachesCap c s then
    { s with
      cursor := 0
      byteCount := s.byteCount + BitVec.ofNat 32 s.cap
      out := { s.out with frameFull := true } }
  else { s with cursor := BitVec.ofNat 8 c }

/-- APPEND(qx, qy, qz); the full signal is `out.frame_full` (R102, R131). -/
def append (q : QuantizedSample) (s : State) : Option State := (storeTriplet q s).map advanceCursor

end Sys2Proof.Machine
end

