-- ==== Sys2Proof/Machine/Transport.lean ====
section
/-! DEFINITION. SEND and MESSAGE, and the completion events TXOK and TXFAIL (spec/43_transport.md R141 to R147). -/

namespace Sys2Proof.Machine

/-- MESSAGE(): the message of a successful begin (R142). -/
def message (s : State) : Message :=
  { id := messageId s.port.env.txnIdIn, len := BitVec.ofNat 8 s.cap, payload := frameBytes s }

/-- A successful begin (R141): the message goes out and the transaction is outstanding. -/
def beginTransaction (s : State) : State :=
  { s with
    out := { s.out with txValid := true, txMsg := message s }
    pending := true
    curId := latchedId s.port.env.txnIdIn }

/-- SEND() (R141): dropped while a transaction is pending (R143) or the channel is busy, else begun. -/
def send (s : State) : State :=
  if s.pending then s else if s.port.env.txReady then beginTransaction s else s

/-- "Completion ... only clears the pending flag": what TXOK and TXFAIL share (R144, R145). -/
def endTransaction (s : State) : State := { s with pending := false, curId := absentId }

/-- TXOK (R144). -/
def execTxok (s : State) : Outcome := .next (endTransaction s.quiet)

/-- TXFAIL reason (R145): the reason is "decoded and unused". -/
def execTxfail (_reason : Byte) (s : State) : Outcome := .next (endTransaction s.quiet)

end Sys2Proof.Machine
end

