-- ==== Sys2Proof/Machine/Sampling.lean ====
section
/-! DEFINITION. BATCH and SAMPLE (spec/40_filter.md R101, R102). -/

namespace Sys2Proof.Machine

/-- BATCH count (R101): any count is accepted; an open batch and a partial block are abandoned. -/
def execBatch (count : Word) (s : State) : Outcome := .next (s.quiet.openBatch count)

/-- SEND if the step's APPEND filled the frame (R102). -/
def sendIfFull (s : State) : State := if s.out.frameFull then send s else s

/-- The tail of a SAMPLE that completes a block: FIR5, QUANT, APPEND, and SEND if full, in that order (R61, R102). -/
def completeBlock (s : State) : Outcome :=
  match append (blockOutput s) s with
  | some t => .next (sendIfFull t)
  | none => .fault .frameOverrun

/-- SAMPLE x, y, z (R102). -/
def execSample (x y z : Half) (s : State) : Outcome :=
  if s.rem = 0 then .next s.quiet
  else if s.phase < 4 then .next (s.quiet.takeSample { x := x, y := y, z := z })
  else completeBlock (s.quiet.takeSample { x := x, y := y, z := z })

end Sys2Proof.Machine
end

