-- ==== Sys2Proof/Machine/Wire.lean ====
section
/-! DEFINITION. The outbound message as bytes (spec/30_encoding.md R80) and what the receiver does with each field
(R82). The receiver is outside the block: no meaning here touches a field of R20's state. A field is taken as it is
read, whatever was read before it (DEDUCED, logs 7 and 19). -/

namespace Sys2Proof.Machine

/-- The fields of a message in ascending tag order; the id's only if it is present (R80). -/
def messageFields (m : Message) : List Instr :=
  (match m.id with
    | some id => [.fTxnid id]
    | none => []) ++ [.fLen m.len, .fPayload m.payload]

/-- The byte serialisation of a message (R80). -/
def serialise (m : Message) : List Byte := (messageFields m).flatMap encodeField

/-- F_TXNID (R82): "0x01 -> read 4 bytes as a little-endian signed 32-bit id". -/
def execFTxnid (id : Word) (s : State) : Outcome :=
  .next { s.quiet with rx := { s.rx.current with id := some id } }

/-- F_LEN (R82): "0x02 -> read 1 byte `len`". -/
def execFLen (len : Byte) (s : State) : Outcome :=
  .next { s.quiet with rx := { s.rx.current with len := len } }

/-- F_PAYLOAD (R82): "0x03 -> read `len` bytes and stop". -/
def execFPayload (bytes : List Byte) (s : State) : Outcome :=
  .next { s.quiet with rx := { s.rx.current with payload := bytes, complete := true } }

end Sys2Proof.Machine
end

