-- ==== Sys2Proof/Machine/Dispatch.lean ====
section
/-! DEFINITION. One arm per row of spec/opcode_table.json, each a direct call of its meaning (spec/44_controller_diag.md
R160: "Exactly one arm runs per step"). -/

namespace Sys2Proof.Machine

def exec (i : Instr) (s : State) : Host.Outcome State Fault Refusal :=
  match i with
  | .nop => Sys2Proof.Machine.execNop s
  | .batch count => Sys2Proof.Machine.execBatch count s
  | .sample x y z => Sys2Proof.Machine.execSample x y z s
  | .txok => Sys2Proof.Machine.execTxok s
  | .txfail reason => Sys2Proof.Machine.execTxfail reason s
  | .rdcnt => Sys2Proof.Machine.execRdcnt s
  | .rdfrm idx => Sys2Proof.Machine.execRdfrm idx s
  | .rdstat => Sys2Proof.Machine.execRdstat s
  | .rdtxid => Sys2Proof.Machine.execRdtxid s
  | .rsvd8 => Sys2Proof.Machine.execRsvd8 s
  | .rsvd9 => Sys2Proof.Machine.execRsvd9 s
  | .rsvdA => Sys2Proof.Machine.execRsvdA s
  | .rsvdB => Sys2Proof.Machine.execRsvdB s
  | .rsvdC => Sys2Proof.Machine.execRsvdC s
  | .rsvdD => Sys2Proof.Machine.execRsvdD s
  | .rsvdE => Sys2Proof.Machine.execRsvdE s
  | .rsvdF => Sys2Proof.Machine.execRsvdF s
  | .fTxnid id => Sys2Proof.Machine.execFTxnid id s
  | .fLen len => Sys2Proof.Machine.execFLen len s
  | .fPayload bytes => Sys2Proof.Machine.execFPayload bytes s

end Sys2Proof.Machine
end

