-- ==== Sys2Proof/Machine/Step.lean ====
section
/-! DEFINITION. One step of the machine (spec/00_scope.md R12, spec/10_state.md R35, R37), and where a test places an
instruction so that the next step runs it. -/

namespace Sys2Proof.Machine

/-- One step: reset, an event of the block, a field of the receiver, or nothing; then the next inputs. Parameters for
which no hardware exists are refused (U12). -/
def step (s : State) : Host.Outcome State Fault Refusal :=
  if s.params.Legal then
    match fetch s with
    | .reset => .next s.applyReset.advance
    | .event i => mapNext State.advance (exec i s)
    | .field i rest => mapNext State.advance (exec i (s.consume rest))
    | .wait => .next s.quiet.advance
  else .refused .illegalParameters

/-- `s` with the instruction whose bits are `w` where the next step looks for it: a 64-bit row's word on the event
port, an 8-bit row's tag byte and operand bytes of zero in front of the receiver. -/
def State.withFetchWord (s : State) (nbits w : Nat) : State :=
  if isTagWidth nbits then s.presentTag w else s.presentEvent (BitVec.ofNat 64 w)

end Sys2Proof.Machine
end

