-- ==== Sys2Proof/Machine/Script.lean ====
section
/-! DEFINITION. The event-script notation of spec/30_encoding.md R84 and its macros R85, assembled into the cycles that the
outside presents. -/

namespace Sys2Proof.Machine

/-- A line of a script. -/
inductive ScriptLine where
  /-- An event line (R84). -/
  | event (i : Instr)
  /-- `ENV tx_ready=b, txn_id_in=v`: "holds for every following event until the next `ENV` line" (R84). -/
  | env (txReady : Bool) (txnIdIn : Word)
  /-- `RESET`: applies reset (R37, R84). -/
  | reset
  /-- `SAMPLES k, x, y, z` (R85). -/
  | samples (k : Nat) (x y z : Half)
  /-- `BLOCK x, y, z` (R85). -/
  | block (x y z : Half)
  /-- `BATCHOF k, x, y, z` (R85). -/
  | batchOf (k : Nat) (x y z : Half)
  deriving DecidableEq, Repr

/-- The real lines that a line stands for: "`BLOCK x, y, z` is `SAMPLES 5, x, y, z`", "`BATCHOF k, x, y, z` expands to
`BATCH k` followed by `SAMPLES k, x, y, z`" (R85). R84 has a BATCH line for a count below 2^32 only; for a larger `k` the
model opens a batch of `k` mod 2^32 and presents all `k` samples (DESIGN CHOICE, log 23). -/
def ScriptLine.expand : ScriptLine → List ScriptLine
  | .samples k x y z => List.replicate k (.event (.sample x y z))
  | .block x y z => List.replicate 5 (.event (.sample x y z))
  | .batchOf k x y z => .event (.batch (BitVec.ofNat 32 k)) :: List.replicate k (.event (.sample x y z))
  | .event i => [.event i]
  | .env txReady txnIdIn => [.env txReady txnIdIn]
  | .reset => [.reset]

/-- A cycle that presents the event word `w` under the levels `env`. -/
def eventCycle (env : Env) (w : EventWord) : Cycle :=
  { port := { rst := false, evValid := true, ev := w, env := env }, wire := [] }

/-- A cycle in which `rst` is asserted. -/
def resetCycle (env : Env) : Cycle :=
  { port := { rst := true, evValid := false, ev := 0, env := env }, wire := [] }

/-- The cycles of expanded lines under the levels `env`. An ENV line "consumes no step", and leaves the timestamp
level as it is. A wire field is no event and has no line in R84's table: it presents nothing (DESIGN CHOICE, log 24). -/
def assembleLines (env : Env) : List ScriptLine → List Cycle
  | [] => []
  | .event i :: rest =>
    match encodeEvent i with
    | some w => eventCycle env w :: assembleLines env rest
    | none => assembleLines env rest
  | .env txReady txnIdIn :: rest => assembleLines { env with txReady := txReady, txnIdIn := txnIdIn } rest
  | .reset :: rest => resetCycle env :: assembleLines env rest
  | .samples _ _ _ _ :: rest => assembleLines env rest
  | .block _ _ _ :: rest => assembleLines env rest
  | .batchOf _ _ _ _ :: rest => assembleLines env rest

/-- The cycles of a script: macros expanded, then assembled (R84, R85). -/
def assemble (env : Env) (script : List ScriptLine) : List Cycle :=
  assembleLines env (script.flatMap ScriptLine.expand)

/-- The levels that hold at the end of what the outside presents: those of the last listed cycle, or, when none is
listed, those on the port now. -/
def State.lastLevels (s : State) : Env :=
  match s.upcoming.getLast? with
  | some c => c.port.env
  | none => s.port.env

/-- `s` with the events of a script to come, after whatever the outside presents already. R84 does not say which levels
hold for events before the first ENV line: the model keeps the levels of the cycle before (DESIGN CHOICE, log 22). -/
def State.loadScript (script : List ScriptLine) (s : State) : State :=
  { s with upcoming := s.upcoming ++ assemble s.lastLevels script }

end Sys2Proof.Machine
end

