-- ==== Sys2Proof/Safety.lean ====
section
/-! DEFINITION. The terms in which claims are stated: the invariant of R31, what an instruction leaves unchanged, runs of
events under any environment, and the batch-level view of R111. -/

namespace Sys2Proof.Machine

/-! ### The invariant -/

/-- R31 (b) to (e), with the legal parameters of R7 and the canonical form of the frame. R31 (a), `phase <= 4`, is
`State.phase`'s type. A safe run is one whose every state meets it: it rules out `Fault.frameOverrun`. -/
structure State.Inv (s : State) : Prop where
  params_legal : s.params.Legal
  frame_wf : s.frame.wf
  frame_within : s.frame.within s.cap
  cursor_in : s.cursor.toNat + numAxes ≤ s.cap
  cursor_aligned : s.cursor.toNat % numAxes = 0
  id_range : -1 ≤ s.curId.toInt
  idle_id : s.pending = false → s.curId = absentId
  byteCount_frames : ∃ frames, s.byteCount.toNat = s.cap * frames % 2 ^ 32

/-! ### What an instruction leaves unchanged -/

/-- `win`, `phase` and `rem`. -/
def KeepsBatch (s t : State) : Prop := t.win = s.win ∧ t.phase = s.phase ∧ t.rem = s.rem

/-- Every byte of the frame. -/
def KeepsBytes (s t : State) : Prop := ∀ a, t.frame.read a = s.frame.read a

/-- The frame's bytes, the cursor and the byte counter. -/
def KeepsFrame (s t : State) : Prop :=
  KeepsBytes s t ∧ t.cursor = s.cursor ∧ t.byteCount = s.byteCount

/-- `pending` and `cur_id`. -/
def KeepsTransaction (s t : State) : Prop := t.pending = s.pending ∧ t.curId = s.curId

/-- The receiver keeps what it has read and the bytes it has not read, ahead of those that arrive in the step. -/
def KeepsReceiver (arriving : List Byte) (s t : State) : Prop :=
  t.rx = { s.rx with stream := s.rx.stream ++ arriving }

/-- What is not the block's state: the parameters, the input ports and the receiver. -/
def KeepsOutside (s t : State) : Prop :=
  t.params = s.params ∧ t.port = s.port ∧ t.upcoming = s.upcoming ∧ t.rx = s.rx

/-- The whole of the block's state (R20). -/
def KeepsBlock (s t : State) : Prop := KeepsBatch s t ∧ KeepsFrame s t ∧ KeepsTransaction s t

/-- Every byte of the frame but the three from the cursor of `s` on. -/
def KeepsOtherBytes (s t : State) : Prop :=
  ∀ a, a < s.cursor.toNat ∨ s.cursor.toNat + numAxes ≤ a → t.frame.read a = s.frame.read a

/-- The three bytes from the cursor of `s` on hold the triplet `q`, x lowest (R52, R130). -/
def HoldsTriplet (q : QuantizedSample) (s t : State) : Prop :=
  t.frame.read s.cursor.toNat = q.x ∧ t.frame.read (s.cursor.toNat + 1) = q.y ∧
    t.frame.read (s.cursor.toNat + 2) = q.z

/-! ### Runs of events -/

/-- `s` with the environment's levels at `env` (R36). -/
def State.withEnv (env : Env) (s : State) : State := { s with port := { s.port with env := env } }

/-- Instructions run one after the other, each under levels of its own; the outputs of each, in order. `none` where one
does not answer a next state. -/
def runEvents : List (Env × Instr) → State → Option (State × List Outputs)
  | [], s => some (s, [])
  | (env, i) :: rest, s =>
    match exec i (s.withEnv env) with
    | .next t => (runEvents rest t).map fun r => (r.1, t.out :: r.2)
    | .fault _ => none
    | .refused _ => none

/-- `n` steps of the machine, to the first that answers no next state. -/
def runSteps : Nat → State → Outcome
  | 0, s => .next s
  | n + 1, s =>
    match step s with
    | .next t => runSteps n t
    | .fault r => .fault r
    | .refused r => .refused r

/-- The message bytes that join the receiver's stream at the end of a step. -/
def State.arriving (s : State) : List Byte :=
  match s.upcoming with
  | [] => []
  | c :: _ => c.wire

/-- The SAMPLE event of a raw sample, with the levels that hold when it is presented. -/
def sampleEvent (e : Env × RawSample) : Env × Instr := (e.1, .sample e.2.x e.2.y e.2.z)

/-! ### The batch-level view -/

/-- One block of the batch-level view (R111): FIR5 of five samples, QUANT each lane, APPEND, and SEND if full, with the
levels that hold when the fifth is presented. -/
def blockEffect (env : Env) (block : Window) (s : State) : Option State :=
  (append (quantize s.params.shift (fir5 s.params.accW block)) (s.withEnv env).quiet).map sendIfFull

/-- The batch-level view (R111): whole blocks of five in order; the remainder has no effect. With the state, the outputs
of each sample's step: those that its block leaves for each fifth one, all zero for every other. -/
def batchEffect : List (Env × RawSample) → State → Option (State × List Outputs)
  | a :: b :: c :: d :: e :: rest, s =>
    match blockEffect e.1 { s0 := a.2, s1 := b.2, s2 := c.2, s3 := d.2, s4 := e.2 } s with
    | some t => (batchEffect rest t).map fun r => (r.1, List.replicate 4 .zero ++ t.out :: r.2)
    | none => none
  | remainder, s => some (s, remainder.map fun _ => .zero)

/-- The frame, its cursor, the counter and the transaction: all that a batch leaves behind it. -/
def SameProduct (s t : State) : Prop := KeepsFrame s t ∧ KeepsTransaction s t

/-! ### What the block never reads -/

/-- Equal but for window registers that hold no sample of the current block (R21, R32). -/
def AgreeOnCollected (s t : State) : Prop :=
  t = { s with win := t.win } ∧ ∀ p : Fin 5, p < s.phase → t.win.get p = s.win.get p

end Sys2Proof.Machine
end

