-- ==== Sys2Proof/Certificates/Slice0/Obligations.lean ====
section
/-! DEFINITION. The statements for the provers. Each docstring names the rules of spec/ it comes from; a statement that
rests on an inference of the spec's own or on a choice of the model says so. -/

open Sys2Proof Sys2Proof.Machine

/-! ### Encoding -/

/-- 95_test_vectors.md T5: words of every family, reserved bits set in some of them. -/
def Obligations.SpecWordsDecode : Prop :=
  decodeEvent 0x0FFFFFFFFFFFFFFF = .nop ∧
  decodeEvent 0x1ABCDEF00000000A = .batch 10 ∧
  decodeEvent 0x20007FFF8000FFFF = .sample (-1) (-32768) 32767 ∧
  decodeEvent 0x2000F4480BB8FF9C = .sample (-100) 3000 (-3000) ∧
  decodeEvent 0x3000000000000300 = .txok ∧
  decodeEvent 0x3000000000000301 = .txfail 3 ∧
  decodeEvent 0x4000000000000000 = .rdcnt ∧
  decodeEvent 0x50000000000001FF = .rdfrm 255 ∧
  decodeEvent 0x6000000000000000 = .rdstat ∧
  decodeEvent 0x7000000000000000 = .rdtxid ∧
  decodeEvent 0x8000000000000000 = .rsvd8 ∧
  decodeEvent 0xFFFFFFFFFFFFFFFF = .rsvdF ∧
  decodeField 0 [0x01, 0x78, 0x56, 0x34, 0x12] = .instr (.fTxnid 0x12345678) [] ∧
  decodeField 0 [0x02, 0x3C] = .instr (.fLen 60) [] ∧
  decodeField 2 [0x03, 0xF6, 0xEC, 0xE2] = .instr (.fPayload [0xF6, 0xEC]) [0xE2]

/-- Decode and encode agree on every well-formed instruction with every operand: an event's word decodes to it, and a
field's bytes, whatever follows them, decode to it and leave what follows (R71 to R76, R80, R82). -/
def Obligations.DecodeInvertsEncode : Prop :=
  ∀ i : Instr, i.WellFormed →
    (i.isEvent = true → ∀ len, decode len (encode i) = .instr i []) ∧
    (i.isEvent = false →
      encode i = .wire (encodeField i) ∧
        ∀ rest, decode (lengthBefore i) (.wire (encodeField i ++ rest)) = .instr i rest)

/-- R70, R72: every 64-bit word selects exactly one row of the opcode map, the row of the event it decodes to. -/
def Obligations.EveryWordSelectsItsRowAlone : Prop :=
  ∀ w : EventWord,
    ∃ r ∈ opcodeMap, r.Selects w ∧ r.mnemonic = (decodeEvent w).mnemonic ∧
      ∀ r' ∈ opcodeMap, r'.Selects w → r' = r

/-- R77: bits that the selected format does not list have no effect, neither on what is decoded nor on the state and
outputs of the step. -/
def Obligations.ReservedBitsHaveNoEffect : Prop :=
  ∀ w w' : EventWord, w &&& formatBits (decodeEvent w) = w' &&& formatBits (decodeEvent w) →
    decodeEvent w' = decodeEvent w ∧
      ∀ s : State, step (s.presentEvent w') = step (s.presentEvent w)

/-- R74, R76, and the operand fields of R73 and R75: each operand as arithmetic on the word's value, with the signed
components of a sample as the number from -32768 to 32767 that is congruent to their field. -/
def Obligations.OperandsAreTheirFields : Prop :=
  ∀ w : EventWord,
    (w.toNat / 2 ^ 60 = 1 → ∃ c, decodeEvent w = .batch c ∧ c.toNat = w.toNat % 2 ^ 32) ∧
    (w.toNat / 2 ^ 60 = 2 →
      ∃ x y z, decodeEvent w = .sample x y z ∧
        sext16 x = (w.toNat : Int).bmod (2 ^ 16) ∧
        sext16 y = ((w.toNat / 2 ^ 16 : Nat) : Int).bmod (2 ^ 16) ∧
        sext16 z = ((w.toNat / 2 ^ 32 : Nat) : Int).bmod (2 ^ 16)) ∧
    (w.toNat / 2 ^ 60 = 3 →
      (w.toNat % 2 = 0 → decodeEvent w = .txok) ∧
      (w.toNat % 2 = 1 → ∃ r, decodeEvent w = .txfail r ∧ r.toNat = w.toNat / 2 ^ 8 % 2 ^ 8)) ∧
    (w.toNat / 2 ^ 60 = 4 → decodeEvent w = .rdcnt) ∧
    (w.toNat / 2 ^ 60 = 5 → ∃ idx, decodeEvent w = .rdfrm idx ∧ idx.toNat = w.toNat % 2 ^ 8) ∧
    (w.toNat / 2 ^ 60 = 6 → decodeEvent w = .rdstat) ∧
    (w.toNat / 2 ^ 60 = 7 → decodeEvent w = .rdtxid)

/-- R84: the word of each line of the script notation is its arithmetic, reserved bits 0. -/
def Obligations.ScriptWordsAreTheirArithmetic : Prop :=
  encodeEvent .nop = some 0x0000000000000000 ∧
  (∀ n : Word, ∃ w, encodeEvent (.batch n) = some w ∧ w.toNat = 0x1000000000000000 + n.toNat) ∧
  (∀ x y z : Half, ∃ w, encodeEvent (.sample x y z) = some w ∧
    w.toNat = 0x2000000000000000 + z.toNat * 2 ^ 32 + y.toNat * 2 ^ 16 + x.toNat) ∧
  encodeEvent .txok = some 0x3000000000000000 ∧
  (∀ r : Byte, ∃ w, encodeEvent (.txfail r) = some w ∧ w.toNat = 0x3000000000000001 + r.toNat * 2 ^ 8) ∧
  encodeEvent .rdcnt = some 0x4000000000000000 ∧
  (∀ idx : Byte, ∃ w, encodeEvent (.rdfrm idx) = some w ∧ w.toNat = 0x5000000000000000 + idx.toNat) ∧
  encodeEvent .rdstat = some 0x6000000000000000 ∧
  encodeEvent .rdtxid = some 0x7000000000000000

/-- R80: the bytes of a message, with and without an id, and how many the block's own message has. -/
def Obligations.SerialisationLayout : Prop :=
  (∀ (id : Word) (len : Byte) (payload : List Byte),
    serialise { id := some id, len := len, payload := payload } =
      [0x01, id.extractLsb' 0 8, id.extractLsb' 8 8, id.extractLsb' 16 8, id.extractLsb' 24 8, 0x02, len, 0x03]
        ++ payload ∧
    serialise { id := none, len := len, payload := payload } = [0x02, len, 0x03] ++ payload) ∧
  ∀ s : State,
    (serialise (message s)).length = (if 0 ≤ s.port.env.txnIdIn.toInt then 8 + s.cap else 3 + s.cap)

/-- The receiver waits, whatever strict prefix of a field has arrived: the prefix decodes as incomplete, and a step with
no event in which it is the whole stream answers a next state with the prefix kept ahead of the bytes that arrive, the
rest of the receiver kept and the block untouched. R82 says what is read, not what happens before all of it is there:
the wait is the model's (log 8, DEDUCED). -/
def Obligations.FieldPrefixIsIncomplete : Prop :=
  ∀ i : Instr, i.isEvent = false → ∀ n, n < (encodeField i).length →
    decodeField (lengthBefore i) ((encodeField i).take n) = .incomplete ∧
    ∀ s : State, s.params.Legal → s.port.rst = false → s.port.evValid = false →
      s.rx.stream = (encodeField i).take n →
      (∀ bytes, i = .fPayload bytes → s.rx.current.len.toNat = bytes.length) →
      ∃ t, step s = .next t ∧ KeepsReceiver s.arriving s t ∧ KeepsBlock s t ∧ t.out = .zero

/-! ### The step -/

/-- An event on the event port runs as the instruction its word decodes to (R35, R160); the step then takes in the
next inputs (`State.advance`, the model's own, log 3). -/
def Obligations.StepRunsDecodedEvent : Prop :=
  ∀ s : State, s.params.Legal → s.port.rst = false → s.port.evValid = true →
    (decodeEvent s.port.ev).WellFormed ∧
      step s = mapNext State.advance (exec (decodeEvent s.port.ev) s)

/-- With no event and no reset, a field at the front of the receiver's stream runs, its bytes taken from the stream.
That the receiver moves in such a step is the model's choice (log 5). -/
def Obligations.StepRunsReceivedField : Prop :=
  ∀ (s : State) (i : Instr) (rest : List Byte), s.params.Legal → s.port.rst = false → s.port.evValid = false →
    decodeField s.rx.current.len.toNat s.rx.stream = .instr i rest →
    step s = mapNext State.advance (exec i (s.consume rest))

/-- R35: "When `ev_valid = 0` the state does not change and every output is 0", whatever stands in front of the receiver,
and the step always answers a next state. -/
def Obligations.NoEventNoChange : Prop :=
  ∀ s : State, s.params.Legal → s.port.rst = false → s.port.evValid = false →
    ∃ t, step s = .next t ∧ KeepsBlock s t ∧ t.out = .zero ∧ t.params = s.params

/-- R34, with R37 and R200: with `rst` asserted, in every state and whatever event stands on the port, the fields of R34
take their reset values and every output is 0. `win` is unspecified after reset and so is not stated. -/
def Obligations.ResetInputForcesResetValues : Prop :=
  ∀ s : State, s.params.Legal → s.port.rst = true →
    ∃ t, step s = .next t ∧
      t.phase = 0 ∧ t.rem = 0 ∧ (∀ a, t.frame.read a = 0) ∧ t.cursor = 0 ∧ t.byteCount = 0 ∧
      t.pending = false ∧ t.curId.toInt = -1 ∧ t.out = .zero

/-- R34: the state after reset, in the fields to which the spec gives a value, and what the four reads of R30 answer in
it. -/
def Obligations.ResetStateReadsAsSpecified : Prop :=
  State.reset.phase = 0 ∧ State.reset.rem = 0 ∧ (∀ a, State.reset.frame.read a = 0) ∧
  State.reset.cursor = 0 ∧ State.reset.byteCount = 0 ∧ State.reset.pending = false ∧
  State.reset.curId.toInt = -1 ∧
  exec .rdcnt State.reset = .next (State.reset.answer 0x00000000) ∧
  (∀ idx, exec (.rdfrm idx) State.reset = .next (State.reset.answer 0x00000000)) ∧
  exec .rdstat State.reset = .next (State.reset.answer 0x00000000) ∧
  exec .rdtxid State.reset = .next (State.reset.answer 0xFFFFFFFF)

/-- R8, U12: a step is refused as illegal exactly when the parameters are, SAMPLE_RATE = 0 and SAMPLE_RATE > 85 among
them. -/
def Obligations.IllegalParametersRefused : Prop :=
  ∀ s : State,
    (step s = .refused .illegalParameters ↔ ¬ s.params.Legal) ∧
    (s.params.sampleRate = 0 ∨ s.params.sampleRate > 85 → step s = .refused .illegalParameters)

/-- A byte that is no tag stops the receiver and nothing else: a step with no event answers a next state with the block
untouched, and the receiver keeps that byte and all it has. R35 gives the block's part; that the receiver stands still
there is the model's (log 9, DESIGN CHOICE): R82 gives the byte no effect. -/
def Obligations.UnknownTagHoldsReceiver : Prop :=
  ∀ (s : State) (tag : Byte) (rest : List Byte), s.params.Legal → s.port.rst = false → s.port.evValid = false →
    s.rx.stream = tag :: rest → tag.toNat = 0 ∨ 3 < tag.toNat →
    ∃ t, step s = .next t ∧ KeepsReceiver s.arriving s t ∧ KeepsBlock s t ∧ t.out = .zero

/-! ### NOP, reserved opcodes, BATCH -/

/-- R161: NOP, opcode 0x0: no state written, all outputs 0. -/
def Obligations.NopDoesNothing : Prop :=
  (∀ w, opcodeOf w = 0x0 → decodeEvent w = .nop) ∧
  ∀ s : State, ∃ t, exec .nop s = .next t ∧ KeepsBlock s t ∧ KeepsOutside s t ∧ t.out = .zero

/-- R167: any word with `ev[63] = 1` is a reserved opcode, and each of the eight writes no state and leaves every output
0. -/
def Obligations.ReservedOpcodesDoNothing : Prop :=
  let reserved : List Instr := [.rsvd8, .rsvd9, .rsvdA, .rsvdB, .rsvdC, .rsvdD, .rsvdE, .rsvdF]
  (∀ w : EventWord, w.getLsbD 63 = true → decodeEvent w ∈ reserved) ∧
  ∀ i ∈ reserved, ∀ s : State,
    ∃ t, exec i s = .next t ∧ KeepsBlock s t ∧ KeepsOutside s t ∧ t.out = .zero

/-- R101: BATCH, opcode 0x1: `rem <- count`, `phase <- 0`, in every state and for every count; no other state changes;
all outputs 0. -/
def Obligations.BatchOpensBatch : Prop :=
  (∀ w, opcodeOf w = 0x1 → decodeEvent w = .batch (countOf w)) ∧
  ∀ (count : Word) (s : State),
    ∃ t, exec (.batch count) s = .next t ∧ t.rem = count ∧ t.phase = 0 ∧ t.win = s.win ∧
      KeepsFrame s t ∧ KeepsTransaction s t ∧ KeepsOutside s t ∧ t.out = .zero

/-! ### SAMPLE -/

/-- R102, first case: a SAMPLE outside a batch (`rem = 0`) changes nothing and gives no output. -/
def Obligations.SampleOutsideBatchIgnored : Prop :=
  ∀ (x y z : Half) (s : State), s.rem = 0 →
    ∃ t, exec (.sample x y z) s = .next t ∧ KeepsBlock s t ∧ KeepsOutside s t ∧ t.out = .zero

/-- R102, second case: an accepted SAMPLE with `phase < 4` goes into `win[phase]`; all outputs 0. -/
def Obligations.SampleCollected : Prop :=
  ∀ (x y z : Half) (s : State), s.rem ≠ 0 → s.phase.val < 4 →
    ∃ t, exec (.sample x y z) s = .next t ∧
      t.rem.toNat = s.rem.toNat - 1 ∧ t.phase.val = s.phase.val + 1 ∧
      t.win.get s.phase = { x := x, y := y, z := z } ∧ (∀ p, p ≠ s.phase → t.win.get p = s.win.get p) ∧
      KeepsFrame s t ∧ KeepsTransaction s t ∧ KeepsOutside s t ∧ t.out = .zero

/-- R102, third case, with R103, R104, R120 and R130: the SAMPLE that completes a block stores the quantized FIR5 of the
block's five samples, lane by lane, at `cursor`, `cursor + 1` and `cursor + 2`, and changes no other byte. -/
def Obligations.SampleCompletesBlock : Prop :=
  ∀ (x y z : Half) (s : State),
    s.params.Legal → s.frame.wf → s.rem ≠ 0 → s.phase = 4 → s.cursor.toNat + 3 ≤ s.cap →
    ∃ t, exec (.sample x y z) s = .next t ∧
      t.rem.toNat = s.rem.toNat - 1 ∧ t.phase = 0 ∧
      t.win.get 4 = { x := x, y := y, z := z } ∧ (∀ p, p ≠ 4 → t.win.get p = s.win.get p) ∧
      HoldsTriplet
        { x := quant s.params.shift
            (firSum s.win.s0.x.toInt s.win.s1.x.toInt s.win.s2.x.toInt s.win.s3.x.toInt x.toInt)
          y := quant s.params.shift
            (firSum s.win.s0.y.toInt s.win.s1.y.toInt s.win.s2.y.toInt s.win.s3.y.toInt y.toInt)
          z := quant s.params.shift
            (firSum s.win.s0.z.toInt s.win.s1.z.toInt s.win.s2.z.toInt s.win.s3.z.toInt z.toInt) } s t ∧
      KeepsOtherBytes s t ∧ KeepsOutside s t

/-- R102 and R131: a completed block that does not fill the frame moves the cursor on by three; the counter and the
transaction stay and all outputs are 0. -/
def Obligations.SampleNotFullAdvancesCursor : Prop :=
  ∀ (x y z : Half) (s : State),
    s.params.Legal → s.rem ≠ 0 → s.phase = 4 → s.cursor.toNat + 3 < s.cap →
    ∃ t, exec (.sample x y z) s = .next t ∧
      t.cursor.toNat = s.cursor.toNat + 3 ∧ t.byteCount = s.byteCount ∧ KeepsTransaction s t ∧ t.out = .zero

/-- R131, R141, R143: a block that fills the frame while a transaction is pending, or while the channel is not ready,
resets the cursor and adds CAP to the counter, and the frame is dropped: `frame_full` alone is set. -/
def Obligations.SampleFullFrameDropped : Prop :=
  ∀ (x y z : Half) (s : State),
    s.rem ≠ 0 → s.phase = 4 → s.cursor.toNat + 3 = s.cap →
    s.pending = true ∨ s.port.env.txReady = false →
    ∃ t, exec (.sample x y z) s = .next t ∧
      t.cursor = 0 ∧ t.byteCount.toNat = (s.byteCount.toNat + s.cap) % 2 ^ 32 ∧ KeepsTransaction s t ∧
      t.out = { Outputs.zero with frameFull := true }

/-- R131, R141, R142: a block that fills the frame while no transaction is pending and the channel is ready begins one:
the message holds the frame as this step leaves it, all CAP bytes in ascending order. -/
def Obligations.SampleFullFrameBegins : Prop :=
  ∀ (x y z : Half) (s : State),
    s.params.Legal → s.rem ≠ 0 → s.phase = 4 → s.cursor.toNat + 3 = s.cap →
    s.pending = false → s.port.env.txReady = true →
    ∃ t, exec (.sample x y z) s = .next t ∧
      t.cursor = 0 ∧ t.byteCount.toNat = (s.byteCount.toNat + s.cap) % 2 ^ 32 ∧
      t.pending = true ∧
      (0 ≤ s.port.env.txnIdIn.toInt →
        t.curId = s.port.env.txnIdIn ∧ t.out.txMsg.id = some s.port.env.txnIdIn) ∧
      (s.port.env.txnIdIn.toInt < 0 → t.curId.toInt = -1 ∧ t.out.txMsg.id = none) ∧
      t.out.txMsg.len.toNat = s.cap ∧ t.out.txMsg.payload = (List.range s.cap).map t.frame.read ∧
      t.out.frameFull = true ∧ t.out.txValid = true ∧ t.out.rdValid = false ∧ t.out.rdata = 0

/-! ### The internal operations -/

/-- R130, R131: APPEND whole, on any three bytes: the write, the cursor, the counter and the full signal. `c > CAP`
"cannot occur" is the third hypothesis. -/
def Obligations.AppendRule : Prop :=
  ∀ (q : QuantizedSample) (s : State),
    s.params.Legal → s.frame.wf → s.cursor.toNat + 3 ≤ s.cap → s.out.frameFull = false →
    ∃ t, append q s = some t ∧ HoldsTriplet q s t ∧ KeepsOtherBytes s t ∧
      (s.cursor.toNat + 3 = s.cap →
        t.cursor = 0 ∧ t.byteCount.toNat = (s.byteCount.toNat + s.cap) % 2 ^ 32 ∧ t.out.frameFull = true) ∧
      (s.cursor.toNat + 3 ≠ s.cap →
        t.cursor.toNat = s.cursor.toNat + 3 ∧ t.byteCount = s.byteCount ∧ t.out.frameFull = false) ∧
      KeepsBatch s t ∧ KeepsTransaction s t ∧ KeepsOutside s t

/-- R141, R142: SEND whole: dropped while pending, dropped while the channel is busy, else begun. Nothing but the
outputs, `pending` and `cur_id` is written. In a step that does not reach SEND the levels make no difference. -/
def Obligations.SendRule : Prop :=
  (∀ s : State, s.cap < 2 ^ 8 → s.out.txValid = false →
    (s.pending = true → send s = s ∧ (send s).out.txValid = false) ∧
    (s.pending = false → s.port.env.txReady = false → send s = s ∧ (send s).out.txValid = false) ∧
    (s.pending = false → s.port.env.txReady = true →
      (send s).out.txValid = true ∧ (send s).pending = true ∧
      (send s).out.txMsg.len.toNat = s.cap ∧
      (send s).out.txMsg.payload = (List.range s.cap).map s.frame.read ∧
      (0 ≤ s.port.env.txnIdIn.toInt →
        (send s).curId = s.port.env.txnIdIn ∧ (send s).out.txMsg.id = some s.port.env.txnIdIn) ∧
      (s.port.env.txnIdIn.toInt < 0 → (send s).curId.toInt = -1 ∧ (send s).out.txMsg.id = none) ∧
      (send s).out = { s.out with txValid := true, txMsg := (send s).out.txMsg } ∧
      KeepsBatch s (send s) ∧ KeepsFrame s (send s) ∧ KeepsOutside s (send s))) ∧
  ∀ (i : Instr) (s : State) (env : Env),
    ¬ ((∃ x y z, i = .sample x y z) ∧ s.rem ≠ 0 ∧ s.phase = 4 ∧ s.cursor.toNat + 3 = s.cap) →
    exec i (s.withEnv env) = mapNext (State.withEnv env) (exec i s)

/-- R104: FIR5 on each lane is the sum of the seven floored terms, for every window and every legal ACC_W. -/
def Obligations.FirSumsItsTaps : Prop :=
  ∀ (w : Window) (accW : Nat), 17 ≤ accW →
    let lane : (RawSample → Half) → Int := fun a =>
      (a w.s0).toInt / 32
        + (a w.s1).toInt / 4 - (a w.s1).toInt / 32
        + (a w.s2).toInt / 2
        + (a w.s3).toInt / 4 - (a w.s3).toInt / 32
        + (a w.s4).toInt / 32
    fir5 accW w = { x := lane RawSample.x, y := lane RawSample.y, z := lane RawSample.z }

/-- The range of FIR5 on 16-bit samples, both ends reached. R108, which the spec marks as its own derivation from R104
and R106. -/
def Obligations.FirRange : Prop :=
  (∀ s0 s1 s2 s3 s4 : Half,
    -32768 ≤ firSum s0.toInt s1.toInt s2.toInt s3.toInt s4.toInt ∧
      firSum s0.toInt s1.toInt s2.toInt s3.toInt s4.toInt ≤ 32765) ∧
  firSum 32767 32767 32767 32767 32767 = 32765 ∧
  firSum (-32768) (-32768) (-32768) (-32768) (-32768) = -32768

/-- Reversing a block does not change FIR5, and a block of five equal multiples of 32 gives that value. R105, which the
spec marks as its own derivation from R104. -/
def Obligations.FirSymmetryAndUnityGain : Prop :=
  (∀ s0 s1 s2 s3 s4 : Int, firSum s0 s1 s2 s3 s4 = firSum s4 s3 s2 s1 s0) ∧
  ∀ k : Int, firSum (32 * k) (32 * k) (32 * k) (32 * k) (32 * k) = 32 * k

/-- ACC_W is unobservable: at any two widths of at least 17, whatever the instruction, the machines differ in that
parameter alone. R7 ("results identical for every legal value") and R108, which the spec marks as its derivation. -/
def Obligations.AccumulatorWidthUnobservable : Prop :=
  ∀ (i : Instr) (s : State) (width : Nat), 17 ≤ s.params.accW → 17 ≤ width →
    let withWidth : State → State := fun u => { u with params := { u.params with accW := width } }
    exec i (withWidth s) = mapNext withWidth (exec i s)

/-- R120: QUANT saturates above and below its bounds, and between them is the low eight bits of the floor shift. -/
def Obligations.QuantRule : Prop :=
  ∀ (shift : Nat) (v : Int),
    (127 * 2 ^ shift < v → (quant shift v).toInt = 127) ∧
    (v < -128 * 2 ^ shift → (quant shift v).toInt = -128) ∧
    (-128 * 2 ^ shift ≤ v → v ≤ 127 * 2 ^ shift →
      ((quant shift v).toNat : Int) = v / 2 ^ shift % 256)

/-- QUANT is the clamp of the floor shift, for every integer and every SHIFT. R121, which the spec marks as its own
derivation from R120 and R10. -/
def Obligations.QuantIsClampedShift : Prop :=
  ∀ (shift : Nat) (v : Int), sext8 (quant shift v) = clamp (asr v shift) (-128) 127

/-- R123: saturating from both bounds on (the non-strict form of the document's §8; 90_conflicts.md C1), bit-identical
to the masked shift between them, and monotonic. Deterministic: `quant` is a function of SHIFT and `v`. -/
def Obligations.QuantContract : Prop :=
  ∀ shift : Nat,
    (∀ v : Int, 127 * 2 ^ shift ≤ v → sext8 (quant shift v) = 127) ∧
    (∀ v : Int, v ≤ -128 * 2 ^ shift → sext8 (quant shift v) = -128) ∧
    (∀ v : Int, -128 * 2 ^ shift < v → v < 127 * 2 ^ shift →
      ((quant shift v).toNat : Int) = asr v shift % 256) ∧
    (∀ v v' : Int, v ≤ v' → sext8 (quant shift v) ≤ sext8 (quant shift v'))

/-! ### Completion events -/

/-- R144: TXOK, opcode 0x3 with `ev[0] = 0`: `pending <- 0`, `cur_id <- -1`; no other state changes; all outputs 0. -/
def Obligations.TxokEndsTransaction : Prop :=
  (∀ w, opcodeOf w = 0x3 → statusOf w = 0 → decodeEvent w = .txok) ∧
  ∀ s : State,
    ∃ t, exec .txok s = .next t ∧ t.pending = false ∧ t.curId.toInt = -1 ∧
      KeepsBatch s t ∧ KeepsFrame s t ∧ KeepsOutside s t ∧ t.out = .zero

/-- R145: TXFAIL, opcode 0x3 with `ev[0] = 1`: as TXOK, whatever the reason. -/
def Obligations.TxfailEndsTransaction : Prop :=
  (∀ w, opcodeOf w = 0x3 → statusOf w = 1 → decodeEvent w = .txfail (reasonOf w)) ∧
  ∀ (reason : Byte) (s : State),
    exec (.txfail reason) s = exec .txok s ∧
    ∃ t, exec (.txfail reason) s = .next t ∧ t.pending = false ∧ t.curId.toInt = -1 ∧
      KeepsBatch s t ∧ KeepsFrame s t ∧ KeepsOutside s t ∧ t.out = .zero

/-- R147: a completion while Idle is a no-op: the state is unchanged and no output is produced. The second hypothesis
is a clause of `State.Inv`. -/
def Obligations.CompletionWhileIdleIsNoOp : Prop :=
  ∀ s : State, s.pending = false → s.curId = absentId →
    ∀ i : Instr, (i = .txok ∨ ∃ reason, i = .txfail reason) →
      ∃ t, exec i s = .next t ∧ KeepsBlock s t ∧ KeepsOutside s t ∧ t.out = .zero

/-! ### Diagnostic reads -/

/-- R163: RDCNT, opcode 0x4, answers `byte_count`. -/
def Obligations.RdcntAnswersByteCount : Prop :=
  (∀ w, opcodeOf w = 0x4 → decodeEvent w = .rdcnt) ∧
  ∀ s : State,
    ∃ t, exec .rdcnt s = .next t ∧ t.out = { Outputs.zero with rdValid := true, rdata := s.byteCount } ∧
      KeepsBlock s t ∧ KeepsOutside s t

/-- R164: RDFRM, opcode 0x5, answers the byte zero-extended, and 0 for an index outside the frame. -/
def Obligations.RdfrmAnswersFrameByte : Prop :=
  (∀ w, opcodeOf w = 0x5 → decodeEvent w = .rdfrm (idxOf w)) ∧
  ∀ (idx : Byte) (s : State),
    ∃ t, exec (.rdfrm idx) s = .next t ∧
      (idx.toNat < s.cap → t.out.rdata.toNat = (s.frame.read idx.toNat).toNat) ∧
      (s.cap ≤ idx.toNat → t.out.rdata = 0) ∧
      t.out = { Outputs.zero with rdValid := true, rdata := t.out.rdata } ∧
      KeepsBlock s t ∧ KeepsOutside s t

/-- R165: RDSTAT, opcode 0x6: bit 0 `pending`, bit 1 id present, bits 15..8 `cursor`, bits 18..16 `phase`, 0
elsewhere. -/
def Obligations.RdstatAnswersStatus : Prop :=
  (∀ w, opcodeOf w = 0x6 → decodeEvent w = .rdstat) ∧
  ∀ s : State,
    ∃ t, exec .rdstat s = .next t ∧
      t.out.rdata.toNat =
        (if s.pending = true then 1 else 0) + 2 * (if 0 ≤ s.curId.toInt then 1 else 0) +
          2 ^ 8 * s.cursor.toNat + 2 ^ 16 * s.phase.val ∧
      t.out = { Outputs.zero with rdValid := true, rdata := t.out.rdata } ∧
      KeepsBlock s t ∧ KeepsOutside s t

/-- R166: RDTXID, opcode 0x7, answers the pattern of `cur_id`: in a state that meets the invariant, 0xFFFFFFFF when no id
is held, else the id, 0 to 2^31 - 1. -/
def Obligations.RdtxidAnswersCurrentId : Prop :=
  (∀ w, opcodeOf w = 0x7 → decodeEvent w = .rdtxid) ∧
  ∀ s : State,
    ∃ t, exec .rdtxid s = .next t ∧ t.out = { Outputs.zero with rdValid := true, rdata := s.curId } ∧
      KeepsBlock s t ∧ KeepsOutside s t ∧
      (s.Inv → (s.pending = false ∨ idPresent s.curId = false → t.out.rdata = 0xFFFFFFFF) ∧
        (idPresent s.curId = true → (t.out.rdata.toNat : Int) = s.curId.toInt ∧ t.out.rdata.toNat < 2 ^ 31))

/-- R162: the four reads change no state field, set `rd_valid`, leave every other output but `rdata` 0, and are
idempotent: the same read right after returns the same data. -/
def Obligations.ReadsAreIdempotent : Prop :=
  ∀ (i : Instr) (s : State), (i = .rdcnt ∨ (∃ idx, i = .rdfrm idx) ∨ i = .rdstat ∨ i = .rdtxid) →
    ∃ t, exec i s = .next t ∧ KeepsBlock s t ∧ KeepsOutside s t ∧
      t.out = { Outputs.zero with rdValid := true, rdata := t.out.rdata } ∧
      exec i t = .next t

/-! ### The receiver -/

/-- The three fields of the wire format: what the receiver keeps of each, after whatever it had read of the same
message, and that the block is untouched. R82, which the spec marks as its own derivation from R80; that a field after
a complete message begins a new one, and that a field is taken as it is read, also a negative id, any payload length and
any order, is the model's (logs 7 and 19, DEDUCED). -/
def Obligations.WireFieldsAreRead : Prop :=
  ∀ s : State,
    (∀ id, ∃ t, exec (.fTxnid id) s = .next t ∧ t.rx = { s.rx.current with id := some id } ∧
      KeepsBlock s t ∧ t.params = s.params ∧ t.port = s.port ∧ t.upcoming = s.upcoming ∧ t.out = .zero) ∧
    (∀ len, ∃ t, exec (.fLen len) s = .next t ∧ t.rx = { s.rx.current with len := len } ∧
      KeepsBlock s t ∧ t.params = s.params ∧ t.port = s.port ∧ t.upcoming = s.upcoming ∧ t.out = .zero) ∧
    (∀ bytes, ∃ t, exec (.fPayload bytes) s = .next t ∧
      t.rx = { s.rx.current with payload := bytes, complete := true } ∧
      KeepsBlock s t ∧ t.params = s.params ∧ t.port = s.port ∧ t.upcoming = s.upcoming ∧ t.out = .zero)

/-- Every serialised message is read back: a receiver at the start of a message, with the serialisation at the front of
its stream and no event presented, holds that very message after one step for each of its fields; what follows stays in
the stream, and the block is untouched. R80 against R82, which the spec marks as its own derivation from R80. -/
def Obligations.ReceiverReadsWhatWasSerialised : Prop :=
  ∀ (m : Message) (s : State) (rest : List Byte),
    s.params.Legal → s.port.rst = false → s.port.evValid = false → s.upcoming = [] →
    s.rx.current = .idle (serialise m ++ rest) →
    m.len.toNat = m.payload.length → (∀ id, m.id = some id → 0 ≤ id.toInt) →
    ∃ t : State, runSteps (messageFields m).length s = .next t ∧
      t.rx.message = m ∧ t.rx.complete = true ∧ t.rx.stream = rest ∧ KeepsBlock s t

/-! ### Rules of the whole machine -/

/-- R31 in the state after reset (the spec marks R31 as its own derivation), with the legal parameters of R7 and the
canonical form of the memory, which are the model's. -/
def Obligations.ResetMeetsInvariant : Prop := State.reset.Inv

/-- R31 is kept by every step: from every state that meets the invariant, whatever the inputs. The spec marks R31 as
its own derivation; the memory's canonical form is the model's. -/
def Obligations.StepKeepsInvariant : Prop :=
  ∀ s t : State, s.Inv → step s = .next t → t.Inv

/-- R180: "every step completes as its rule says": in a state that meets the invariant every instruction answers a next
state, so that a buffer overrun is impossible (R181), and so does every step of the machine, whatever its inputs. -/
def Obligations.EveryInstructionCompletes : Prop :=
  ∀ s : State, s.Inv → (∀ i : Instr, ∃ t, exec i s = .next t) ∧ ∃ t, step s = .next t

/-- R24, R143, R146: a message goes out only from Idle with the channel ready, in a step that fills the frame, and the
step leaves the block SendPending; `pending` is set by nothing else, and cleared only by TXOK, TXFAIL and reset. -/
def Obligations.OneTransactionAtATime : Prop :=
  ∀ s t : State, step s = .next t →
    (t.out.txValid = true →
      s.pending = false ∧ s.port.env.txReady = true ∧ t.out.frameFull = true ∧ t.pending = true) ∧
    (s.pending = false → t.pending = true → t.out.txValid = true) ∧
    (s.pending = true → t.pending = false →
      s.port.rst = true ∨
        (s.port.evValid = true ∧
          (decodeEvent s.port.ev = .txok ∨ ∃ reason, decodeEvent s.port.ev = .txfail reason)))

/-- R28, R132: but for reset, the counter grows by CAP in exactly the steps that signal a full frame, transmitted or
dropped, and changes in no other. -/
def Obligations.CounterCountsFullFrames : Prop :=
  ∀ s t : State, step s = .next t → s.port.rst = false →
    t.byteCount.toNat = (s.byteCount.toNat + if t.out.frameFull = true then s.cap else 0) % 2 ^ 32

/-- R24, R131: but for reset, `frame_full` is set in exactly the steps in which a SAMPLE that completes a block takes
the cursor to CAP. -/
def Obligations.FullSignalOnlyWhenCursorReachesCap : Prop :=
  ∀ s t : State, s.Inv → step s = .next t → s.port.rst = false →
    (t.out.frameFull = true ↔
      s.port.evValid = true ∧ (∃ x y z, decodeEvent s.port.ev = .sample x y z) ∧ s.rem ≠ 0 ∧ s.phase = 4 ∧
        s.cursor.toNat + 3 = s.cap)

/-- R57, R130, R190: but for reset, a byte of the frame changes only in a SAMPLE that completes a block, and only at the
three addresses from the cursor on; the frame is not cleared when the cursor returns to 0. -/
def Obligations.OnlyBlockCompletionWritesFrame : Prop :=
  ∀ s t : State, s.frame.wf → step s = .next t → s.port.rst = false →
    ∀ a, t.frame.read a ≠ s.frame.read a →
      s.port.evValid = true ∧ (∃ x y z, decodeEvent s.port.ev = .sample x y z) ∧ s.rem ≠ 0 ∧ s.phase = 4 ∧
        s.cursor.toNat ≤ a ∧ a < s.cursor.toNat + 3

/-- R33, R36, R145: the timestamp and the failure reason have no effect on state or output, in any step. -/
def Obligations.TimestampAndReasonUnobservable : Prop :=
  (∀ (i : Instr) (s : State) (ts : BitVec 64),
    exec i (s.withEnv { s.port.env with tsIn := ts }) =
      mapNext (fun u => u.withEnv { u.port.env with tsIn := ts }) (exec i s)) ∧
  ∀ (reason reason' : Byte) (s : State), exec (.txfail reason) s = exec (.txfail reason') s

/-- R21: a window register that holds no sample of the current block is never read: two states that differ only in such
registers step to states, with the same outputs, that again differ only so. So the value the model gives `win` at
reset (log 1) cannot be observed. R21's sentence is marked by the spec as its own derivation. -/
def Obligations.UncollectedWindowUnobservable : Prop :=
  ∀ s t s' : State, AgreeOnCollected s t → step s = .next s' →
    ∃ t', step t = .next t' ∧ AgreeOnCollected s' t'

/-! ### Runs under any environment -/

/-- Filter statelessness (R103, R104, R109, which the spec marks as derived): five accepted samples from the start of
a block, under any levels, store the quantized FIR5 of those five samples and nothing else, whatever the window, the
frame and the transaction were. -/
def Obligations.FiveSamplesStoreTheirTriplet : Prop :=
  ∀ (s : State) (ea eb ec ed ee : Env) (a b c d e : RawSample),
    s.Inv → s.phase = 0 → 5 ≤ s.rem.toNat →
    ∃ t outs,
      runEvents ([(ea, a), (eb, b), (ec, c), (ed, d), (ee, e)].map sampleEvent) s = some (t, outs) ∧
      HoldsTriplet
        { x := quant s.params.shift (firSum a.x.toInt b.x.toInt c.x.toInt d.x.toInt e.x.toInt)
          y := quant s.params.shift (firSum a.y.toInt b.y.toInt c.y.toInt d.y.toInt e.y.toInt)
          z := quant s.params.shift (firSum a.z.toInt b.z.toInt c.z.toInt d.z.toInt e.z.toInt) } s t ∧
      KeepsOtherBytes s t ∧ t.phase = 0 ∧ t.rem.toNat = s.rem.toNat - 5

/-- The frame length law: from an empty frame at the start of a block, 5 x SAMPLE_RATE accepted samples, of any values
and under any levels, give exactly one full signal, in the last of them, and leave the cursor at 0. R133, which the spec
marks as its own derivation from R131. -/
def Obligations.FrameLengthLaw : Prop :=
  ∀ (s : State) (samples : List (Env × RawSample)),
    s.Inv → s.cursor = 0 → s.phase = 0 →
    samples.length = 5 * s.params.sampleRate → samples.length ≤ s.rem.toNat →
    ∃ t outs,
      runEvents (samples.map sampleEvent) s = some (t, outs) ∧
      outs.map Outputs.frameFull = List.replicate (5 * s.params.sampleRate - 1) false ++ [true] ∧
      t.cursor = 0 ∧ t.phase = 0 ∧ t.byteCount.toNat = (s.byteCount.toNat + s.cap) % 2 ^ 32

/-- The batch-level view: a BATCH n and exactly n SAMPLE events, under any levels, leave the frame, cursor, counter and
transaction that the blocks of five leave in order, the remainder having no effect, and give the outputs that the blocks
give: those of its block for each fifth sample, full signal and message among them, and none for every other event; then
`rem = 0` and `phase = n mod 5`. R111 (which the spec marks as its own derivation) and the remainder policy of R110. -/
def Obligations.BatchLevelView : Prop :=
  ∀ (env : Env) (samples : List (Env × RawSample)) (s : State), s.Inv → samples.length < 2 ^ 32 →
    ∃ t u outs,
      runEvents ((env, .batch (BitVec.ofNat 32 samples.length)) :: samples.map sampleEvent) s =
        some (t, .zero :: outs) ∧
      batchEffect samples s = some (u, outs) ∧ SameProduct u t ∧
      t.rem = 0 ∧ t.phase.val = samples.length % 5

/-- A run of events is a run of the machine: when the outside presents one word a cycle, each under levels of its own,
and nothing else, the steps of the machine reach what the decoded events reach one after the other from the state
without its outputs. The first step takes in the first cycle (`State.advance`, the model's own, log 3); the legal
parameters are R7's. -/
def Obligations.EventRunsAreMachineRuns : Prop :=
  ∀ (s t : State) (events : List (Env × EventWord)) (outs : List Outputs),
    s.params.Legal → s.port.rst = false → s.port.evValid = false → s.rx.stream = [] →
    s.upcoming = events.map (fun e => eventCycle e.1 e.2) →
    runEvents (events.map fun e => (e.1, decodeEvent e.2)) s.quiet = some (t, outs) →
    ∃ t' : State, runSteps (events.length + 1) s = .next t' ∧ t' = { t with port := t'.port, upcoming := [] }

/-- Reset concerns the block alone: the parameters, the receiver (but for the bytes that arrive) and the inputs to come
are not told. The parameters are R33's and log 10's; the rest is the model's (log 13, DEDUCED from R202). -/
def Obligations.ResetKeepsOutside : Prop :=
  ∀ s : State, s.params.Legal → s.port.rst = true →
    ∃ t, step s = .next t ∧ t.params = s.params ∧ KeepsReceiver s.arriving s t ∧ t.upcoming = s.upcoming.tail
end

