-- ==== Sys2Proof/Laws/Encoding.lean ====
section
/-! SUPPORT. The laws of fields and places in a word, of the opcode, and of the wire's tags and byte order. -/

namespace Sys2Proof

@[simp] theorem getLsbD_bitField (w : EventWord) (lo width k : Nat) :
    (bitField w lo width).getLsbD k = (decide (k < width) && w.getLsbD (lo + k)) := by
  simp [bitField]

@[simp] theorem getLsbD_place {n : Nat} (width : Nat) (v : BitVec n) (lo k : Nat) :
    (place width v lo).getLsbD k = (decide (k < width) && !decide (k < lo) && v.getLsbD (k - lo)) := by
  unfold place
  rw [BitVec.getLsbD_shiftLeft, BitVec.getLsbD_setWidth]
  by_cases h : k < width
  · have : k - lo < width := by omega
    simp [h, this]
  · simp [h]

/-- Masking an event word with 0xF000000000000000 leaves the opcode (R72). -/
theorem and_opcodeMask (w : EventWord) : w &&& 0xF000000000000000 = opcodeWord (opcodeOf w) := by
  unfold opcodeWord opcodeOf bitField place
  ext k hk
  simp only [BitVec.getElem_and, BitVec.getElem_shiftLeft]
  interval_cases k <;> simp

theorem opcodeWord_injective : ∀ a b : BitVec 4, opcodeWord a = opcodeWord b → a = b := by decide

@[simp] theorem opcodeOf_opcodeWord : ∀ op : BitVec 4, opcodeOf (opcodeWord op) = op := by decide

/-- The opcode's bits are above every operand's. -/
theorem opcodeOf_or_place {n : Nat} (w : EventWord) (v : BitVec n) (lo : Nat) (h : lo + n ≤ 60) :
    opcodeOf (w ||| place 64 v lo) = opcodeOf w := by
  apply BitVec.eq_of_getLsbD_eq
  intro k hk
  simp only [opcodeOf, getLsbD_bitField, BitVec.getLsbD_or, getLsbD_place]
  have : v.getLsbD (60 + k - lo) = false := BitVec.getLsbD_of_ge _ _ (by omega)
  simp [this]

/-- The id's four bytes, least significant first, are the id again (R53, R80, R82). -/
theorem littleEndianWord_bytes (id : Word) :
    littleEndianWord (id.extractLsb' 0 8) (id.extractLsb' 8 8) (id.extractLsb' 16 8) (id.extractLsb' 24 8) = id := by
  unfold littleEndianWord place
  ext k hk
  interval_cases k <;> simp

@[simp] theorem decodeField_nil (len : Nat) : decodeField len [] = .incomplete := rfl

theorem decodeField_tagId (len : Nat) (b0 b1 b2 b3 : Byte) (rest : List Byte) :
    decodeField len (tagId :: b0 :: b1 :: b2 :: b3 :: rest) =
      .instr (.fTxnid (littleEndianWord b0 b1 b2 b3)) rest := rfl

theorem decodeField_tagLen (len : Nat) (n : Byte) (rest : List Byte) :
    decodeField len (tagLen :: n :: rest) = .instr (.fLen n) rest := rfl

theorem decodeField_tagPayload (len : Nat) (value : List Byte) (h : len ≤ value.length) :
    decodeField len (tagPayload :: value) = .instr (.fPayload (value.take len)) (value.drop len) := by
  simp [decodeField, tagId, tagLen, tagPayload, h]

theorem decodeField_unknown (len : Nat) (tag : Byte) (value : List Byte)
    (h1 : tag ≠ tagId) (h2 : tag ≠ tagLen) (h3 : tag ≠ tagPayload) :
    decodeField len (tag :: value) = .unknownTag tag := by
  simp only [decodeField, if_neg h1, if_neg h2, if_neg h3]

/-- What the receiver decodes is a field of the wire format. -/
theorem decodeField_isEvent {len : Nat} {bytes rest : List Byte} {i : Instr}
    (h : decodeField len bytes = .instr i rest) : i.isEvent = false := by
  unfold decodeField at h
  split at h
  · cases h
  · split at h
    · split at h <;> cases h
      rfl
    · split at h
      · split at h <;> cases h
        rfl
      · split at h
        · split at h <;> cases h
          rfl
        · cases h

end Sys2Proof
end

