-- ==== Sys2Proof/Laws/Memory.lean ====
section
/-! SUPPORT. The laws of the frame's bytes: read after write, the canonical form, and that memories in that form with
equal bytes are equal. -/

namespace Sys2Proof.Machine

@[simp] theorem Memory.read_nil (k : Nat) : Memory.read [] k = unlistedByte := rfl

@[simp] theorem Memory.read_cons (a : Nat) (v : Byte) (m : Memory) (k : Nat) :
    Memory.read ((a, v) :: m) k = if a = k then v else Memory.read m k := rfl

/-- An address that no entry names reads as an unlisted one. -/
theorem Memory.read_of_not_listed (m : Memory) (k : Nat) (h : ∀ c ∈ m, c.1 ≠ k) :
    m.read k = unlistedByte := by
  induction m with
  | nil => rfl
  | cons c m ih =>
    rw [Memory.read_cons, if_neg (h c (by simp)), ih fun d hd => h d (by simp [hd])]

/-- An entry of a memory in canonical form is what its address reads as. -/
theorem Memory.read_of_mem (m : Memory) (hm : m.Pairwise fun c d => c.1 < d.1) (a : Nat) (v : Byte)
    (h : (a, v) ∈ m) : m.read a = v := by
  induction m with
  | nil => simp at h
  | cons c m ih =>
    obtain ⟨hc, hm⟩ := List.pairwise_cons.mp hm
    rcases List.mem_cons.mp h with rfl | h
    · simp
    · rw [Memory.read_cons, if_neg (Nat.ne_of_lt (hc _ h)), ih hm h]

theorem Memory.mem_consCell {a : Nat} {v : Byte} {m : Memory} {c : Host.Cell}
    (h : c ∈ Memory.consCell a v m) : c = (a, v) ∧ v ≠ unlistedByte ∨ c ∈ m := by
  unfold Memory.consCell at h
  split at h
  · exact .inr h
  · rcases List.mem_cons.mp h with h | h
    · exact .inl ⟨h, ‹_›⟩
    · exact .inr h

/-- What a store leaves listed: the stored cell, and old cells of other addresses. -/
theorem Memory.mem_write {m : Memory} {k : Nat} {v : Byte} {c : Host.Cell} (h : c ∈ m.write k v) :
    c = (k, v) ∧ v ≠ unlistedByte ∨ c ∈ m := by
  induction m with
  | nil => exact Memory.mem_consCell h
  | cons d m ih =>
    unfold Memory.write at h
    split at h
    · exact Memory.mem_consCell h
    · split at h
      · rcases Memory.mem_consCell h with h | h
        · exact .inl h
        · exact .inr (List.mem_cons_of_mem _ h)
      · rcases List.mem_cons.mp h with h | h
        · exact .inr (h ▸ List.mem_cons_self)
        · exact (ih h).imp id (List.mem_cons_of_mem _)

theorem Memory.wf_nil : Memory.wf [] := ⟨.nil, by simp⟩

theorem Memory.wf_cons_iff (c : Host.Cell) (m : Memory) :
    Memory.wf (c :: m) ↔ (∀ d ∈ m, c.1 < d.1) ∧ c.2 ≠ unlistedByte ∧ Memory.wf m := by
  simp only [Memory.wf, List.pairwise_cons, List.forall_mem_cons]
  tauto

theorem Memory.consCell_wf {a : Nat} {v : Byte} {m : Memory} (h : m.wf) (ha : ∀ d ∈ m, a < d.1) :
    (Memory.consCell a v m).wf := by
  unfold Memory.consCell
  split
  · exact h
  · exact (Memory.wf_cons_iff _ _).mpr ⟨ha, ‹_›, h⟩

/-- A store keeps the canonical form. -/
theorem Memory.write_wf {m : Memory} (h : m.wf) (k : Nat) (v : Byte) : (m.write k v).wf := by
  induction m with
  | nil => exact Memory.consCell_wf h (by simp)
  | cons c m ih =>
    obtain ⟨hlt, hne, hm⟩ := (Memory.wf_cons_iff c m).mp h
    unfold Memory.write
    split
    · rename_i hk
      refine Memory.consCell_wf h fun d hd => ?_
      rcases List.mem_cons.mp hd with rfl | hd
      · exact hk
      · exact Nat.lt_trans hk (hlt d hd)
    · rename_i hk
      split
      · rename_i heq
        exact Memory.consCell_wf hm fun d hd => heq ▸ hlt d hd
      · rename_i hne'
        refine (Memory.wf_cons_iff _ _).mpr ⟨fun d hd => ?_, hne, ih hm⟩
        rcases Memory.mem_write hd with ⟨rfl, -⟩ | hd
        · exact Nat.lt_of_le_of_ne (Nat.le_of_not_lt hk) (Ne.symm hne')
        · exact hlt d hd

/-- A store inside the address space leaves every listed address inside it. -/
theorem Memory.write_within {m : Memory} {cap : Nat} (h : m.within cap) {k : Nat} (hk : k < cap) (v : Byte) :
    (m.write k v).within cap := by
  intro c hc
  rcases Memory.mem_write hc with ⟨rfl, -⟩ | hc
  · exact hk
  · exact h c hc

/-- A byte of a memory with a cell in front. -/
theorem Memory.read_consCell (a : Nat) (v : Byte) (m : Memory) (k : Nat)
    (h : ∀ c ∈ m, c.1 ≠ a) : (Memory.consCell a v m).read k = if a = k then v else m.read k := by
  unfold Memory.consCell
  split
  · rename_i hv
    split
    · rename_i hk; subst hk; rw [Memory.read_of_not_listed m a h, hv]
    · rfl
  · rfl

/-- Read after write, at every address (canonical form before the store). -/
theorem Memory.read_write {m : Memory} (h : m.wf) (k j : Nat) (v : Byte) :
    (m.write k v).read j = if k = j then v else m.read j := by
  induction m with
  | nil => exact Memory.read_consCell k v [] j (by simp)
  | cons c m ih =>
    obtain ⟨hlt, hne, hm⟩ := (Memory.wf_cons_iff c m).mp h
    obtain ⟨a, w⟩ := c
    unfold Memory.write
    split
    · rename_i hk
      refine Memory.read_consCell k v _ j fun d hd => ?_
      rcases List.mem_cons.mp hd with rfl | hd
      · exact (Nat.ne_of_lt hk).symm
      · exact (Nat.ne_of_lt (Nat.lt_trans hk (hlt d hd))).symm
    · split
      · rename_i heq
        subst heq
        rw [Memory.read_consCell k v m j fun d hd => (Nat.ne_of_lt (hlt d hd)).symm, Memory.read_cons]
        split <;> rfl
      · rename_i hne'
        rw [Memory.read_cons, Memory.read_cons, ih hm]
        by_cases hj : a = j
        · subst hj; simp [hne']
        · simp [hj]

theorem Memory.read_write_same {m : Memory} (h : m.wf) (k : Nat) (v : Byte) : (m.write k v).read k = v := by
  simp [Memory.read_write h]

theorem Memory.read_write_other {m : Memory} (h : m.wf) {k j : Nat} (hj : k ≠ j) (v : Byte) :
    (m.write k v).read j = m.read j := by
  simp [Memory.read_write h, hj]

/-- Memories in canonical form that read the same everywhere are the same data. -/
theorem Memory.eq_of_read_eq {m n : Memory} (hm : m.wf) (hn : n.wf) (h : ∀ k, m.read k = n.read k) : m = n := by
  induction m generalizing n with
  | nil =>
    cases n with
    | nil => rfl
    | cons c n =>
      have := h c.1
      rw [Memory.read_nil, Memory.read_cons, if_pos rfl] at this
      exact absurd this.symm (hn.2 c (by simp))
  | cons c m ih =>
    obtain ⟨a, v⟩ := c
    obtain ⟨hlt, hne, hm'⟩ := (Memory.wf_cons_iff _ m).mp hm
    cases n with
    | nil =>
      have := h a
      rw [Memory.read_nil, Memory.read_cons, if_pos rfl] at this
      exact absurd this hne
    | cons d n =>
      obtain ⟨b, w⟩ := d
      obtain ⟨hlt', hne', hn'⟩ := (Memory.wf_cons_iff _ n).mp hn
      have below : ∀ (x : Nat) (l : Memory), (∀ d ∈ l, x < d.1) → l.read x = unlistedByte := fun x l hl =>
        Memory.read_of_not_listed l x fun d hd => (Nat.ne_of_lt (hl d hd)).symm
      have hab : a = b := by
        rcases Nat.lt_trichotomy a b with hab | hab | hab
        · have := h a
          rw [Memory.read_cons, if_pos rfl, Memory.read_cons, if_neg (Nat.ne_of_lt hab).symm,
            below a n fun d hd => Nat.lt_trans hab (hlt' d hd)] at this
          exact absurd this hne
        · exact hab
        · have := h b
          rw [Memory.read_cons, if_neg (Nat.ne_of_lt hab).symm, Memory.read_cons, if_pos rfl,
            below b m fun d hd => Nat.lt_trans hab (hlt d hd)] at this
          exact absurd this.symm hne'
      subst hab
      have hv : v = w := by simpa using h a
      subst hv
      have hmn : m = n := ih hm' hn' fun k => by
        by_cases hk : a = k
        · subst hk; rw [below a m hlt, below a n hlt']
        · simpa [hk] using h k
      rw [hmn]

end Sys2Proof.Machine
end

