-- ==== Sys2Proof/Laws/State.lean ====
section
/-! SUPPORT. One lemma per field per update of `State`: each update's effect on each field, true by definition. -/

namespace Sys2Proof.Machine

theorem Outcome.next_injective {s t : State} (h : (Host.Outcome.next s : Outcome) = .next t) : s = t := by
  cases h; rfl

/-! ### `State.quiet` -/

@[simp] theorem State.quiet_params (s : State) : s.quiet.params = s.params := rfl
@[simp] theorem State.quiet_win (s : State) : s.quiet.win = s.win := rfl
@[simp] theorem State.quiet_phase (s : State) : s.quiet.phase = s.phase := rfl
@[simp] theorem State.quiet_rem (s : State) : s.quiet.rem = s.rem := rfl
@[simp] theorem State.quiet_frame (s : State) : s.quiet.frame = s.frame := rfl
@[simp] theorem State.quiet_cursor (s : State) : s.quiet.cursor = s.cursor := rfl
@[simp] theorem State.quiet_byteCount (s : State) : s.quiet.byteCount = s.byteCount := rfl
@[simp] theorem State.quiet_pending (s : State) : s.quiet.pending = s.pending := rfl
@[simp] theorem State.quiet_curId (s : State) : s.quiet.curId = s.curId := rfl
@[simp] theorem State.quiet_out (s : State) : s.quiet.out = .zero := rfl
@[simp] theorem State.quiet_port (s : State) : s.quiet.port = s.port := rfl
@[simp] theorem State.quiet_upcoming (s : State) : s.quiet.upcoming = s.upcoming := rfl
@[simp] theorem State.quiet_rx (s : State) : s.quiet.rx = s.rx := rfl

/-! ### `State.answer` -/

@[simp] theorem State.answer_params (data : Word) (s : State) : (s.answer data).params = s.params := rfl
@[simp] theorem State.answer_win (data : Word) (s : State) : (s.answer data).win = s.win := rfl
@[simp] theorem State.answer_phase (data : Word) (s : State) : (s.answer data).phase = s.phase := rfl
@[simp] theorem State.answer_rem (data : Word) (s : State) : (s.answer data).rem = s.rem := rfl
@[simp] theorem State.answer_frame (data : Word) (s : State) : (s.answer data).frame = s.frame := rfl
@[simp] theorem State.answer_cursor (data : Word) (s : State) : (s.answer data).cursor = s.cursor := rfl
@[simp] theorem State.answer_byteCount (data : Word) (s : State) : (s.answer data).byteCount = s.byteCount := rfl
@[simp] theorem State.answer_pending (data : Word) (s : State) : (s.answer data).pending = s.pending := rfl
@[simp] theorem State.answer_curId (data : Word) (s : State) : (s.answer data).curId = s.curId := rfl
@[simp] theorem State.answer_out (data : Word) (s : State) : (s.answer data).out = { Outputs.zero with rdValid := true, rdata := data } := rfl
@[simp] theorem State.answer_port (data : Word) (s : State) : (s.answer data).port = s.port := rfl
@[simp] theorem State.answer_upcoming (data : Word) (s : State) : (s.answer data).upcoming = s.upcoming := rfl
@[simp] theorem State.answer_rx (data : Word) (s : State) : (s.answer data).rx = s.rx := rfl

/-! ### `State.openBatch` -/

@[simp] theorem State.openBatch_params (count : Word) (s : State) : (s.openBatch count).params = s.params := rfl
@[simp] theorem State.openBatch_win (count : Word) (s : State) : (s.openBatch count).win = s.win := rfl
@[simp] theorem State.openBatch_phase (count : Word) (s : State) : (s.openBatch count).phase = 0 := rfl
@[simp] theorem State.openBatch_rem (count : Word) (s : State) : (s.openBatch count).rem = count := rfl
@[simp] theorem State.openBatch_frame (count : Word) (s : State) : (s.openBatch count).frame = s.frame := rfl
@[simp] theorem State.openBatch_cursor (count : Word) (s : State) : (s.openBatch count).cursor = s.cursor := rfl
@[simp] theorem State.openBatch_byteCount (count : Word) (s : State) : (s.openBatch count).byteCount = s.byteCount := rfl
@[simp] theorem State.openBatch_pending (count : Word) (s : State) : (s.openBatch count).pending = s.pending := rfl
@[simp] theorem State.openBatch_curId (count : Word) (s : State) : (s.openBatch count).curId = s.curId := rfl
@[simp] theorem State.openBatch_out (count : Word) (s : State) : (s.openBatch count).out = s.out := rfl
@[simp] theorem State.openBatch_port (count : Word) (s : State) : (s.openBatch count).port = s.port := rfl
@[simp] theorem State.openBatch_upcoming (count : Word) (s : State) : (s.openBatch count).upcoming = s.upcoming := rfl
@[simp] theorem State.openBatch_rx (count : Word) (s : State) : (s.openBatch count).rx = s.rx := rfl

/-! ### `State.takeSample` -/

@[simp] theorem State.takeSample_params (v : RawSample) (s : State) : (s.takeSample v).params = s.params := rfl
@[simp] theorem State.takeSample_win (v : RawSample) (s : State) : (s.takeSample v).win = s.win.set s.phase v := rfl
@[simp] theorem State.takeSample_phase (v : RawSample) (s : State) : (s.takeSample v).phase = nextPhase s.phase := rfl
@[simp] theorem State.takeSample_rem (v : RawSample) (s : State) : (s.takeSample v).rem = s.rem - 1 := rfl
@[simp] theorem State.takeSample_frame (v : RawSample) (s : State) : (s.takeSample v).frame = s.frame := rfl
@[simp] theorem State.takeSample_cursor (v : RawSample) (s : State) : (s.takeSample v).cursor = s.cursor := rfl
@[simp] theorem State.takeSample_byteCount (v : RawSample) (s : State) : (s.takeSample v).byteCount = s.byteCount := rfl
@[simp] theorem State.takeSample_pending (v : RawSample) (s : State) : (s.takeSample v).pending = s.pending := rfl
@[simp] theorem State.takeSample_curId (v : RawSample) (s : State) : (s.takeSample v).curId = s.curId := rfl
@[simp] theorem State.takeSample_out (v : RawSample) (s : State) : (s.takeSample v).out = s.out := rfl
@[simp] theorem State.takeSample_port (v : RawSample) (s : State) : (s.takeSample v).port = s.port := rfl
@[simp] theorem State.takeSample_upcoming (v : RawSample) (s : State) : (s.takeSample v).upcoming = s.upcoming := rfl
@[simp] theorem State.takeSample_rx (v : RawSample) (s : State) : (s.takeSample v).rx = s.rx := rfl

/-! ### `endTransaction` -/

@[simp] theorem endTransaction_params (s : State) : (endTransaction s).params = s.params := rfl
@[simp] theorem endTransaction_win (s : State) : (endTransaction s).win = s.win := rfl
@[simp] theorem endTransaction_phase (s : State) : (endTransaction s).phase = s.phase := rfl
@[simp] theorem endTransaction_rem (s : State) : (endTransaction s).rem = s.rem := rfl
@[simp] theorem endTransaction_frame (s : State) : (endTransaction s).frame = s.frame := rfl
@[simp] theorem endTransaction_cursor (s : State) : (endTransaction s).cursor = s.cursor := rfl
@[simp] theorem endTransaction_byteCount (s : State) : (endTransaction s).byteCount = s.byteCount := rfl
@[simp] theorem endTransaction_pending (s : State) : (endTransaction s).pending = false := rfl
@[simp] theorem endTransaction_curId (s : State) : (endTransaction s).curId = absentId := rfl
@[simp] theorem endTransaction_out (s : State) : (endTransaction s).out = s.out := rfl
@[simp] theorem endTransaction_port (s : State) : (endTransaction s).port = s.port := rfl
@[simp] theorem endTransaction_upcoming (s : State) : (endTransaction s).upcoming = s.upcoming := rfl
@[simp] theorem endTransaction_rx (s : State) : (endTransaction s).rx = s.rx := rfl

/-! ### `beginTransaction` -/

@[simp] theorem beginTransaction_params (s : State) : (beginTransaction s).params = s.params := rfl
@[simp] theorem beginTransaction_win (s : State) : (beginTransaction s).win = s.win := rfl
@[simp] theorem beginTransaction_phase (s : State) : (beginTransaction s).phase = s.phase := rfl
@[simp] theorem beginTransaction_rem (s : State) : (beginTransaction s).rem = s.rem := rfl
@[simp] theorem beginTransaction_frame (s : State) : (beginTransaction s).frame = s.frame := rfl
@[simp] theorem beginTransaction_cursor (s : State) : (beginTransaction s).cursor = s.cursor := rfl
@[simp] theorem beginTransaction_byteCount (s : State) : (beginTransaction s).byteCount = s.byteCount := rfl
@[simp] theorem beginTransaction_pending (s : State) : (beginTransaction s).pending = true := rfl
@[simp] theorem beginTransaction_curId (s : State) : (beginTransaction s).curId = latchedId s.port.env.txnIdIn := rfl
@[simp] theorem beginTransaction_out (s : State) : (beginTransaction s).out = { s.out with txValid := true, txMsg := message s } := rfl
@[simp] theorem beginTransaction_port (s : State) : (beginTransaction s).port = s.port := rfl
@[simp] theorem beginTransaction_upcoming (s : State) : (beginTransaction s).upcoming = s.upcoming := rfl
@[simp] theorem beginTransaction_rx (s : State) : (beginTransaction s).rx = s.rx := rfl

/-! ### `State.applyReset` -/

@[simp] theorem State.applyReset_params (s : State) : s.applyReset.params = s.params := rfl
@[simp] theorem State.applyReset_win (s : State) : s.applyReset.win = .atReset := rfl
@[simp] theorem State.applyReset_phase (s : State) : s.applyReset.phase = 0 := rfl
@[simp] theorem State.applyReset_rem (s : State) : s.applyReset.rem = 0 := rfl
@[simp] theorem State.applyReset_frame (s : State) : s.applyReset.frame = [] := rfl
@[simp] theorem State.applyReset_cursor (s : State) : s.applyReset.cursor = 0 := rfl
@[simp] theorem State.applyReset_byteCount (s : State) : s.applyReset.byteCount = 0 := rfl
@[simp] theorem State.applyReset_pending (s : State) : s.applyReset.pending = false := rfl
@[simp] theorem State.applyReset_curId (s : State) : s.applyReset.curId = absentId := rfl
@[simp] theorem State.applyReset_out (s : State) : s.applyReset.out = .zero := rfl
@[simp] theorem State.applyReset_port (s : State) : s.applyReset.port = s.port := rfl
@[simp] theorem State.applyReset_upcoming (s : State) : s.applyReset.upcoming = s.upcoming := rfl
@[simp] theorem State.applyReset_rx (s : State) : s.applyReset.rx = s.rx := rfl

/-! ### `State.consume` -/

@[simp] theorem State.consume_params (rest : List Byte) (s : State) : (s.consume rest).params = s.params := rfl
@[simp] theorem State.consume_win (rest : List Byte) (s : State) : (s.consume rest).win = s.win := rfl
@[simp] theorem State.consume_phase (rest : List Byte) (s : State) : (s.consume rest).phase = s.phase := rfl
@[simp] theorem State.consume_rem (rest : List Byte) (s : State) : (s.consume rest).rem = s.rem := rfl
@[simp] theorem State.consume_frame (rest : List Byte) (s : State) : (s.consume rest).frame = s.frame := rfl
@[simp] theorem State.consume_cursor (rest : List Byte) (s : State) : (s.consume rest).cursor = s.cursor := rfl
@[simp] theorem State.consume_byteCount (rest : List Byte) (s : State) : (s.consume rest).byteCount = s.byteCount := rfl
@[simp] theorem State.consume_pending (rest : List Byte) (s : State) : (s.consume rest).pending = s.pending := rfl
@[simp] theorem State.consume_curId (rest : List Byte) (s : State) : (s.consume rest).curId = s.curId := rfl
@[simp] theorem State.consume_out (rest : List Byte) (s : State) : (s.consume rest).out = s.out := rfl
@[simp] theorem State.consume_port (rest : List Byte) (s : State) : (s.consume rest).port = s.port := rfl
@[simp] theorem State.consume_upcoming (rest : List Byte) (s : State) : (s.consume rest).upcoming = s.upcoming := rfl
@[simp] theorem State.consume_rx (rest : List Byte) (s : State) : (s.consume rest).rx = { s.rx with stream := rest } := rfl

/-! ### `State.withEnv` -/

@[simp] theorem State.withEnv_params (env : Env) (s : State) : (s.withEnv env).params = s.params := rfl
@[simp] theorem State.withEnv_win (env : Env) (s : State) : (s.withEnv env).win = s.win := rfl
@[simp] theorem State.withEnv_phase (env : Env) (s : State) : (s.withEnv env).phase = s.phase := rfl
@[simp] theorem State.withEnv_rem (env : Env) (s : State) : (s.withEnv env).rem = s.rem := rfl
@[simp] theorem State.withEnv_frame (env : Env) (s : State) : (s.withEnv env).frame = s.frame := rfl
@[simp] theorem State.withEnv_cursor (env : Env) (s : State) : (s.withEnv env).cursor = s.cursor := rfl
@[simp] theorem State.withEnv_byteCount (env : Env) (s : State) : (s.withEnv env).byteCount = s.byteCount := rfl
@[simp] theorem State.withEnv_pending (env : Env) (s : State) : (s.withEnv env).pending = s.pending := rfl
@[simp] theorem State.withEnv_curId (env : Env) (s : State) : (s.withEnv env).curId = s.curId := rfl
@[simp] theorem State.withEnv_out (env : Env) (s : State) : (s.withEnv env).out = s.out := rfl
@[simp] theorem State.withEnv_port (env : Env) (s : State) : (s.withEnv env).port = { s.port with env := env } := rfl
@[simp] theorem State.withEnv_upcoming (env : Env) (s : State) : (s.withEnv env).upcoming = s.upcoming := rfl
@[simp] theorem State.withEnv_rx (env : Env) (s : State) : (s.withEnv env).rx = s.rx := rfl

/-! ### `State.presentEvent` -/

@[simp] theorem State.presentEvent_params (w : EventWord) (s : State) : (s.presentEvent w).params = s.params := rfl
@[simp] theorem State.presentEvent_win (w : EventWord) (s : State) : (s.presentEvent w).win = s.win := rfl
@[simp] theorem State.presentEvent_phase (w : EventWord) (s : State) : (s.presentEvent w).phase = s.phase := rfl
@[simp] theorem State.presentEvent_rem (w : EventWord) (s : State) : (s.presentEvent w).rem = s.rem := rfl
@[simp] theorem State.presentEvent_frame (w : EventWord) (s : State) : (s.presentEvent w).frame = s.frame := rfl
@[simp] theorem State.presentEvent_cursor (w : EventWord) (s : State) : (s.presentEvent w).cursor = s.cursor := rfl
@[simp] theorem State.presentEvent_byteCount (w : EventWord) (s : State) : (s.presentEvent w).byteCount = s.byteCount := rfl
@[simp] theorem State.presentEvent_pending (w : EventWord) (s : State) : (s.presentEvent w).pending = s.pending := rfl
@[simp] theorem State.presentEvent_curId (w : EventWord) (s : State) : (s.presentEvent w).curId = s.curId := rfl
@[simp] theorem State.presentEvent_out (w : EventWord) (s : State) : (s.presentEvent w).out = s.out := rfl
@[simp] theorem State.presentEvent_port (w : EventWord) (s : State) : (s.presentEvent w).port = { s.port with rst := false, evValid := true, ev := w } := rfl
@[simp] theorem State.presentEvent_upcoming (w : EventWord) (s : State) : (s.presentEvent w).upcoming = s.upcoming := rfl
@[simp] theorem State.presentEvent_rx (w : EventWord) (s : State) : (s.presentEvent w).rx = s.rx := rfl

/-! ### `State.advance`: the block's fields stay -/

@[simp] theorem State.advance_params (s : State) : s.advance.params = s.params := by
  unfold State.advance; split <;> rfl
@[simp] theorem State.advance_win (s : State) : s.advance.win = s.win := by
  unfold State.advance; split <;> rfl
@[simp] theorem State.advance_phase (s : State) : s.advance.phase = s.phase := by
  unfold State.advance; split <;> rfl
@[simp] theorem State.advance_rem (s : State) : s.advance.rem = s.rem := by
  unfold State.advance; split <;> rfl
@[simp] theorem State.advance_frame (s : State) : s.advance.frame = s.frame := by
  unfold State.advance; split <;> rfl
@[simp] theorem State.advance_cursor (s : State) : s.advance.cursor = s.cursor := by
  unfold State.advance; split <;> rfl
@[simp] theorem State.advance_byteCount (s : State) : s.advance.byteCount = s.byteCount := by
  unfold State.advance; split <;> rfl
@[simp] theorem State.advance_pending (s : State) : s.advance.pending = s.pending := by
  unfold State.advance; split <;> rfl
@[simp] theorem State.advance_curId (s : State) : s.advance.curId = s.curId := by
  unfold State.advance; split <;> rfl
@[simp] theorem State.advance_out (s : State) : s.advance.out = s.out := by
  unfold State.advance; split <;> rfl

@[simp] theorem State.advance_upcoming (s : State) : s.advance.upcoming = s.upcoming.tail := by
  unfold State.advance; split <;> simp_all
@[simp] theorem State.advance_rx (s : State) :
    s.advance.rx = { s.rx with stream := s.rx.stream ++ s.arriving } := by
  unfold State.advance State.arriving; split <;> simp_all

/-! ### `State.arriving` depends on the inputs to come alone -/

@[simp] theorem State.quiet_arriving (s : State) : s.quiet.arriving = s.arriving := rfl
@[simp] theorem State.applyReset_arriving (s : State) : s.applyReset.arriving = s.arriving := rfl
@[simp] theorem State.consume_arriving (rest : List Byte) (s : State) : (s.consume rest).arriving = s.arriving := rfl
@[simp] theorem State.withEnv_arriving (env : Env) (s : State) : (s.withEnv env).arriving = s.arriving := rfl

/-! ### `advanceCursor`: what it leaves alone -/

@[simp] theorem advanceCursor_params (s : State) : (advanceCursor s).params = s.params := by
  unfold advanceCursor; simp only; split <;> rfl
@[simp] theorem advanceCursor_win (s : State) : (advanceCursor s).win = s.win := by
  unfold advanceCursor; simp only; split <;> rfl
@[simp] theorem advanceCursor_phase (s : State) : (advanceCursor s).phase = s.phase := by
  unfold advanceCursor; simp only; split <;> rfl
@[simp] theorem advanceCursor_rem (s : State) : (advanceCursor s).rem = s.rem := by
  unfold advanceCursor; simp only; split <;> rfl
@[simp] theorem advanceCursor_frame (s : State) : (advanceCursor s).frame = s.frame := by
  unfold advanceCursor; simp only; split <;> rfl
@[simp] theorem advanceCursor_pending (s : State) : (advanceCursor s).pending = s.pending := by
  unfold advanceCursor; simp only; split <;> rfl
@[simp] theorem advanceCursor_curId (s : State) : (advanceCursor s).curId = s.curId := by
  unfold advanceCursor; simp only; split <;> rfl
@[simp] theorem advanceCursor_port (s : State) : (advanceCursor s).port = s.port := by
  unfold advanceCursor; simp only; split <;> rfl
@[simp] theorem advanceCursor_upcoming (s : State) : (advanceCursor s).upcoming = s.upcoming := by
  unfold advanceCursor; simp only; split <;> rfl
@[simp] theorem advanceCursor_rx (s : State) : (advanceCursor s).rx = s.rx := by
  unfold advanceCursor; simp only; split <;> rfl

/-! ### `send`: what it leaves alone -/

@[simp] theorem send_params (s : State) : (send s).params = s.params := by
  unfold send; split
  · rfl
  · split <;> rfl
@[simp] theorem send_win (s : State) : (send s).win = s.win := by
  unfold send; split
  · rfl
  · split <;> rfl
@[simp] theorem send_phase (s : State) : (send s).phase = s.phase := by
  unfold send; split
  · rfl
  · split <;> rfl
@[simp] theorem send_rem (s : State) : (send s).rem = s.rem := by
  unfold send; split
  · rfl
  · split <;> rfl
@[simp] theorem send_frame (s : State) : (send s).frame = s.frame := by
  unfold send; split
  · rfl
  · split <;> rfl
@[simp] theorem send_cursor (s : State) : (send s).cursor = s.cursor := by
  unfold send; split
  · rfl
  · split <;> rfl
@[simp] theorem send_byteCount (s : State) : (send s).byteCount = s.byteCount := by
  unfold send; split
  · rfl
  · split <;> rfl
@[simp] theorem send_port (s : State) : (send s).port = s.port := by
  unfold send; split
  · rfl
  · split <;> rfl
@[simp] theorem send_upcoming (s : State) : (send s).upcoming = s.upcoming := by
  unfold send; split
  · rfl
  · split <;> rfl
@[simp] theorem send_rx (s : State) : (send s).rx = s.rx := by
  unfold send; split
  · rfl
  · split <;> rfl

/-! ### `sendIfFull`: what it leaves alone -/

@[simp] theorem sendIfFull_params (s : State) : (sendIfFull s).params = s.params := by
  unfold sendIfFull; split <;> simp
@[simp] theorem sendIfFull_win (s : State) : (sendIfFull s).win = s.win := by
  unfold sendIfFull; split <;> simp
@[simp] theorem sendIfFull_phase (s : State) : (sendIfFull s).phase = s.phase := by
  unfold sendIfFull; split <;> simp
@[simp] theorem sendIfFull_rem (s : State) : (sendIfFull s).rem = s.rem := by
  unfold sendIfFull; split <;> simp
@[simp] theorem sendIfFull_frame (s : State) : (sendIfFull s).frame = s.frame := by
  unfold sendIfFull; split <;> simp
@[simp] theorem sendIfFull_cursor (s : State) : (sendIfFull s).cursor = s.cursor := by
  unfold sendIfFull; split <;> simp
@[simp] theorem sendIfFull_byteCount (s : State) : (sendIfFull s).byteCount = s.byteCount := by
  unfold sendIfFull; split <;> simp
@[simp] theorem sendIfFull_port (s : State) : (sendIfFull s).port = s.port := by
  unfold sendIfFull; split <;> simp
@[simp] theorem sendIfFull_upcoming (s : State) : (sendIfFull s).upcoming = s.upcoming := by
  unfold sendIfFull; split <;> simp
@[simp] theorem sendIfFull_rx (s : State) : (sendIfFull s).rx = s.rx := by
  unfold sendIfFull; split <;> simp

/-! ### Values that depend on few fields -/

@[simp] theorem State.quiet_cap (s : State) : s.quiet.cap = s.cap := rfl
@[simp] theorem State.takeSample_cap (v : RawSample) (s : State) : (s.takeSample v).cap = s.cap := rfl
@[simp] theorem State.withEnv_cap (env : Env) (s : State) : (s.withEnv env).cap = s.cap := rfl
@[simp] theorem State.applyReset_cap (s : State) : s.applyReset.cap = s.cap := rfl
@[simp] theorem State.consume_cap (rest : List Byte) (s : State) : (s.consume rest).cap = s.cap := rfl
@[simp] theorem State.advance_cap (s : State) : s.advance.cap = s.cap := by simp [State.cap]
@[simp] theorem advanceCursor_cap (s : State) : (advanceCursor s).cap = s.cap := by simp [State.cap]
@[simp] theorem send_cap (s : State) : (send s).cap = s.cap := by simp [State.cap]
@[simp] theorem sendIfFull_cap (s : State) : (sendIfFull s).cap = s.cap := by simp [State.cap]

@[simp] theorem Window.get_set_same (w : Window) (p : Fin 5) (v : RawSample) : (w.set p v).get p = v := by
  fin_cases p <;> rfl

theorem Window.get_set_other (w : Window) (p q : Fin 5) (v : RawSample) (h : q ≠ p) :
    (w.set p v).get q = w.get q := by
  fin_cases p <;> fin_cases q <;> first | rfl | exact absurd rfl h

theorem Window.ext_get (w u : Window) (h : ∀ p, w.get p = u.get p) : w = u := by
  cases w
  cases u
  simp only [Window.mk.injEq]
  exact ⟨h 0, h 1, h 2, h 3, h 4⟩

end Sys2Proof.Machine
end

