-- ==== Sys2Proof/Laws/Ops.lean ====
section
/-! SUPPORT. For each shared operation, once, everything it can do. -/

namespace Sys2Proof.Machine

/-! ### Outcomes -/

@[simp] theorem mapNext_next (f : State → State) (s : State) : mapNext f (.next s) = .next (f s) := rfl

theorem mapNext_eq_next_iff (f : State → State) (o : Outcome) (t : State) :
    mapNext f o = .next t ↔ ∃ s, o = .next s ∧ t = f s := by
  cases o with
  | next s => simp [mapNext, eq_comm]
  | fault r => simp [mapNext]
  | refused r => simp [mapNext]

/-! ### Memory access -/

theorem memRead_of_lt {a : Nat} {s : State} (h : a < s.cap) : memRead a s = some (s.frame.read a) := if_pos h

theorem memRead_of_ge {a : Nat} {s : State} (h : s.cap ≤ a) : memRead a s = none := if_neg (Nat.not_lt.mpr h)

theorem memWrite_eq_some_iff (a : Nat) (v : Byte) (s t : State) :
    memWrite a v s = some t ↔ a < s.cap ∧ t = { s with frame := s.frame.write a v } := by
  unfold memWrite
  split <;> simp_all [eq_comm]

theorem frameBytes_length (s : State) : (frameBytes s).length = s.cap := by simp [frameBytes]

theorem frameBytes_getElem (s : State) (a : Nat) (h : a < s.cap) :
    (frameBytes s)[a]'(by simpa [frameBytes] using h) = s.frame.read a := by simp [frameBytes]

/-! ### APPEND -/

/-- The frame after a triplet is stored at address `c`. -/
theorem storeTriplet_eq_some_iff (q : QuantizedSample) (s t : State) :
    storeTriplet q s = some t ↔
      s.cursor.toNat + numAxes ≤ s.cap ∧
        t = { s with
          frame := ((s.frame.write s.cursor.toNat q.x).write (s.cursor.toNat + 1) q.y).write
            (s.cursor.toNat + 2) q.z } := by
  by_cases h : s.cursor.toNat + 2 < s.cap
  · have h0 : s.cursor.toNat < s.params.cap := by simp only [State.cap] at h; omega
    have h1 : s.cursor.toNat + 1 < s.params.cap := by simp only [State.cap] at h; omega
    have h2 : s.cursor.toNat + 2 < s.params.cap := h
    have h3 : s.cursor.toNat + numAxes ≤ s.cap := h
    simp [storeTriplet, memWrite, State.cap, h0, h1, h2, eq_comm, numAxes]
    intro _; omega
  · have h3 : ¬ s.cursor.toNat + numAxes ≤ s.cap := h
    simp only [h3, false_and, iff_false]
    unfold storeTriplet memWrite
    simp only [State.cap] at h ⊢
    by_cases h0 : s.cursor.toNat < s.params.cap <;> by_cases h1 : s.cursor.toNat + 1 < s.params.cap <;>
      simp [h0, h1, h]

/-- A stored triplet keeps the frame's form, is read back, and leaves the other bytes alone. -/
theorem storeTriplet_bytes {q : QuantizedSample} {s t : State} (hwf : s.frame.wf) (h : storeTriplet q s = some t) :
    t.frame.wf ∧ HoldsTriplet q s t ∧ KeepsOtherBytes s t := by
  obtain ⟨-, rfl⟩ := (storeTriplet_eq_some_iff q s t).mp h
  have w1 := Memory.write_wf hwf s.cursor.toNat q.x
  have w2 := Memory.write_wf w1 (s.cursor.toNat + 1) q.y
  refine ⟨Memory.write_wf w2 _ _, ⟨?_, ?_, ?_⟩, fun a ha => ?_⟩
  · simp [Memory.read_write w2, Memory.read_write w1, Memory.read_write hwf]
  · simp [Memory.read_write w2, Memory.read_write w1]
  · simp [Memory.read_write w2]
  · have : s.cursor.toNat ≠ a ∧ s.cursor.toNat + 1 ≠ a ∧ s.cursor.toNat + 2 ≠ a := by
      simp only [numAxes] at ha; omega
    simp [Memory.read_write w2, Memory.read_write w1, Memory.read_write hwf, this]

theorem storeTriplet_within {q : QuantizedSample} {s t : State} (hin : s.frame.within s.cap)
    (h : storeTriplet q s = some t) : t.frame.within s.cap := by
  obtain ⟨hc, rfl⟩ := (storeTriplet_eq_some_iff q s t).mp h
  simp only [numAxes] at hc
  exact Memory.write_within (Memory.write_within (Memory.write_within hin (by omega) _) (by omega) _) (by omega) _

/-- The cursor reaches CAP: it returns to 0, the counter grows by CAP, and the step signals full (R131). -/
theorem advanceCursor_of_full {s : State} (h : s.cursor.toNat + numAxes = s.cap) :
    advanceCursor s =
      { s with
        cursor := 0
        byteCount := s.byteCount + BitVec.ofNat 32 s.cap
        out := { s.out with frameFull := true } } := by
  simp [advanceCursor, reachesCap, h]

/-- The cursor does not reach CAP: it moves on by three, and nothing else happens (R131). -/
theorem advanceCursor_of_not_full {s : State} (h : s.cursor.toNat + numAxes ≠ s.cap) :
    advanceCursor s = { s with cursor := BitVec.ofNat 8 (s.cursor.toNat + numAxes) } := by
  simp [advanceCursor, reachesCap, h]

theorem append_eq_some_iff (q : QuantizedSample) (s t : State) :
    append q s = some t ↔ ∃ u, storeTriplet q s = some u ∧ t = advanceCursor u := by
  simp [append, eq_comm]

/-- APPEND succeeds exactly where its three addresses are in the frame (R51, R54). -/
theorem append_isSome_iff (q : QuantizedSample) (s : State) :
    (append q s).isSome ↔ s.cursor.toNat + numAxes ≤ s.cap := by
  rw [Option.isSome_iff_exists]
  constructor
  · rintro ⟨t, h⟩
    obtain ⟨u, hu, -⟩ := (append_eq_some_iff q s t).mp h
    exact ((storeTriplet_eq_some_iff q s u).mp hu).1
  · intro h
    exact ⟨_, (append_eq_some_iff q s _).mpr ⟨_, (storeTriplet_eq_some_iff q s _).mpr ⟨h, rfl⟩, rfl⟩⟩

/-! ### SEND -/

theorem send_of_pending {s : State} (h : s.pending = true) : send s = s := by simp [send, h]

theorem send_of_busy {s : State} (h : s.port.env.txReady = false) : send s = s := by simp [send, h]

theorem send_of_ready {s : State} (hp : s.pending = false) (hr : s.port.env.txReady = true) :
    send s = beginTransaction s := by simp [send, hp, hr]

/-- What SEND can do: nothing (a drop), or a begin, which needs an idle block and a ready channel. -/
theorem send_cases (s : State) :
    (send s = s ∧ beginSucceeds s = false) ∨ (send s = beginTransaction s ∧ beginSucceeds s = true) := by
  cases hp : s.pending <;> cases hr : s.port.env.txReady <;> simp [send, beginSucceeds, hp, hr]

/-! ### SAMPLE -/

theorem execSample_of_closed {x y z : Half} {s : State} (h : s.rem = 0) : execSample x y z s = .next s.quiet :=
  if_pos h

theorem execSample_of_collecting {x y z : Half} {s : State} (hr : s.rem ≠ 0) (hp : s.phase < 4) :
    execSample x y z s = .next (s.quiet.takeSample ⟨x, y, z⟩) := by
  rw [execSample, if_neg hr, if_pos hp]

theorem execSample_of_last {x y z : Half} {s : State} (hr : s.rem ≠ 0) (hp : s.phase = 4) :
    execSample x y z s = completeBlock (s.quiet.takeSample ⟨x, y, z⟩) := by
  rw [execSample, if_neg hr, if_neg (by rw [hp]; decide)]

theorem completeBlock_eq_next_iff (s t : State) :
    completeBlock s = .next t ↔ ∃ u, append (blockOutput s) s = some u ∧ t = sendIfFull u := by
  unfold completeBlock
  cases append (blockOutput s) s with
  | none => simp
  | some u => simp [eq_comm]

/-- What a SAMPLE that answers a next state has done: been ignored, been collected, or completed a block. -/
theorem execSample_next_cases {x y z : Half} {s t : State} (h : execSample x y z s = .next t) :
    (s.rem = 0 ∧ t = s.quiet) ∨
      (s.rem ≠ 0 ∧ s.phase < 4 ∧ t = s.quiet.takeSample ⟨x, y, z⟩) ∨
      (s.rem ≠ 0 ∧ s.phase = 4 ∧
        ∃ u, append (blockOutput (s.quiet.takeSample ⟨x, y, z⟩)) (s.quiet.takeSample ⟨x, y, z⟩) = some u ∧
          t = sendIfFull u) := by
  by_cases hr : s.rem = 0
  · rw [execSample_of_closed hr] at h
    exact .inl ⟨hr, (Outcome.next_injective h).symm⟩
  · by_cases hp : s.phase < 4
    · rw [execSample_of_collecting hr hp] at h
      exact .inr (.inl ⟨hr, hp, (Outcome.next_injective h).symm⟩)
    · have hp4 : s.phase = 4 := by omega
      rw [execSample_of_last hr hp4, completeBlock_eq_next_iff] at h
      exact .inr (.inr ⟨hr, hp4, h⟩)

/-! ### The receiver -/

@[simp] theorem Receiver.current_complete (r : Receiver) : r.current.complete = false := by
  unfold Receiver.current
  split
  · rfl
  · simp_all

@[simp] theorem Receiver.current_stream (r : Receiver) : r.current.stream = r.stream := by
  unfold Receiver.current
  split <;> rfl

theorem Receiver.current_of_reading {r : Receiver} (h : r.complete = false) : r.current = r := by
  simp [Receiver.current, h]

/-! ### One step -/

/-- What a step that answers a next state has done. -/
theorem step_next_cases {s t : State} (h : step s = .next t) :
    s.params.Legal ∧
      ((fetch s = .reset ∧ t = s.applyReset.advance) ∨
        (∃ i u, fetch s = .event i ∧ exec i s = .next u ∧ t = u.advance) ∨
        (∃ i rest u, fetch s = .field i rest ∧ exec i (s.consume rest) = .next u ∧ t = u.advance) ∨
        (fetch s = .wait ∧ t = s.quiet.advance)) := by
  unfold step at h
  split at h
  · refine ⟨‹_›, ?_⟩
    split at h
    · exact .inl ⟨‹_›, (Outcome.next_injective h).symm⟩
    · obtain ⟨u, hu, rfl⟩ := (mapNext_eq_next_iff _ _ _).mp h
      exact .inr (.inl ⟨_, u, ‹_›, hu, rfl⟩)
    · obtain ⟨u, hu, rfl⟩ := (mapNext_eq_next_iff _ _ _).mp h
      exact .inr (.inr (.inl ⟨_, _, u, ‹_›, hu, rfl⟩))
    · exact .inr (.inr (.inr ⟨‹_›, (Outcome.next_injective h).symm⟩))
  · cases h

/-- The memory of the machine after reset has the canonical form. -/
theorem State.reset_frame_wf : State.reset.frame.wf := Memory.wf_nil

end Sys2Proof.Machine
end

