-- ==== Sys2Proof/Laws/PerInstr.lean ====
section
/-! SUPPORT. Per instruction: what its encoding selects in the opcode table. -/

namespace Sys2Proof.Laws

/-- An event's word selects the row of the opcode map that bears its mnemonic (R72); a wire field's bytes begin with
its row's tag (R79, R80). -/
def EncodesItsRow.Statement (i : Instr) : Prop :=
  match encodeEvent i with
  | some w => ∃ r ∈ opcodeMap, r.mnemonic = i.mnemonic ∧ r.Selects w
  | none =>
    (i.mnemonic, (encodeField i).head?) ∈
      [("F_TXNID", some tagId), ("F_LEN", some tagLen), ("F_PAYLOAD", some tagPayload)]

theorem EncodesItsRow.nop : EncodesItsRow.Statement .nop :=
  ⟨⟨"NOP", 0xF000000000000000, 0x0000000000000000⟩, by simp [opcodeMap], rfl, by decide⟩

theorem EncodesItsRow.batch (count : Word) : EncodesItsRow.Statement (.batch count) :=
  ⟨⟨"BATCH", 0xF000000000000000, 0x1000000000000000⟩, by simp [opcodeMap], rfl, by
    rw [OpcodeRow.Selects, and_opcodeMask, opcodeOf_or_place _ _ _ (by decide)]; decide⟩

theorem EncodesItsRow.sample (x y z : Half) : EncodesItsRow.Statement (.sample x y z) :=
  ⟨⟨"SAMPLE", 0xF000000000000000, 0x2000000000000000⟩, by simp [opcodeMap], rfl, by
    rw [OpcodeRow.Selects, and_opcodeMask, opcodeOf_or_place _ _ _ (by decide),
      opcodeOf_or_place _ _ _ (by decide), opcodeOf_or_place _ _ _ (by decide)]; decide⟩

theorem EncodesItsRow.txok : EncodesItsRow.Statement .txok :=
  ⟨⟨"TXOK", 0xF000000000000001, 0x3000000000000000⟩, by simp [opcodeMap], rfl, by decide⟩

theorem EncodesItsRow.txfail (reason : Byte) : EncodesItsRow.Statement (.txfail reason) :=
  ⟨⟨"TXFAIL", 0xF000000000000001, 0x3000000000000001⟩, by simp [opcodeMap], rfl, by
    revert reason; decide⟩

theorem EncodesItsRow.rdcnt : EncodesItsRow.Statement .rdcnt :=
  ⟨⟨"RDCNT", 0xF000000000000000, 0x4000000000000000⟩, by simp [opcodeMap], rfl, by decide⟩

theorem EncodesItsRow.rdfrm (idx : Byte) : EncodesItsRow.Statement (.rdfrm idx) :=
  ⟨⟨"RDFRM", 0xF000000000000000, 0x5000000000000000⟩, by simp [opcodeMap], rfl, by
    rw [OpcodeRow.Selects, and_opcodeMask, opcodeOf_or_place _ _ _ (by decide)]; decide⟩

theorem EncodesItsRow.rdstat : EncodesItsRow.Statement .rdstat :=
  ⟨⟨"RDSTAT", 0xF000000000000000, 0x6000000000000000⟩, by simp [opcodeMap], rfl, by decide⟩

theorem EncodesItsRow.rdtxid : EncodesItsRow.Statement .rdtxid :=
  ⟨⟨"RDTXID", 0xF000000000000000, 0x7000000000000000⟩, by simp [opcodeMap], rfl, by decide⟩

theorem EncodesItsRow.rsvd8 : EncodesItsRow.Statement .rsvd8 :=
  ⟨⟨"RSVD8", 0xF000000000000000, 0x8000000000000000⟩, by simp [opcodeMap], rfl, by decide⟩

theorem EncodesItsRow.rsvd9 : EncodesItsRow.Statement .rsvd9 :=
  ⟨⟨"RSVD9", 0xF000000000000000, 0x9000000000000000⟩, by simp [opcodeMap], rfl, by decide⟩

theorem EncodesItsRow.rsvdA : EncodesItsRow.Statement .rsvdA :=
  ⟨⟨"RSVDA", 0xF000000000000000, 0xA000000000000000⟩, by simp [opcodeMap], rfl, by decide⟩

theorem EncodesItsRow.rsvdB : EncodesItsRow.Statement .rsvdB :=
  ⟨⟨"RSVDB", 0xF000000000000000, 0xB000000000000000⟩, by simp [opcodeMap], rfl, by decide⟩

theorem EncodesItsRow.rsvdC : EncodesItsRow.Statement .rsvdC :=
  ⟨⟨"RSVDC", 0xF000000000000000, 0xC000000000000000⟩, by simp [opcodeMap], rfl, by decide⟩

theorem EncodesItsRow.rsvdD : EncodesItsRow.Statement .rsvdD :=
  ⟨⟨"RSVDD", 0xF000000000000000, 0xD000000000000000⟩, by simp [opcodeMap], rfl, by decide⟩

theorem EncodesItsRow.rsvdE : EncodesItsRow.Statement .rsvdE :=
  ⟨⟨"RSVDE", 0xF000000000000000, 0xE000000000000000⟩, by simp [opcodeMap], rfl, by decide⟩

theorem EncodesItsRow.rsvdF : EncodesItsRow.Statement .rsvdF :=
  ⟨⟨"RSVDF", 0xF000000000000000, 0xF000000000000000⟩, by simp [opcodeMap], rfl, by decide⟩

theorem EncodesItsRow.fTxnid (id : Word) : EncodesItsRow.Statement (.fTxnid id) := by
  simp [EncodesItsRow.Statement, encodeEvent, encodeField, Instr.mnemonic]

theorem EncodesItsRow.fLen (len : Byte) : EncodesItsRow.Statement (.fLen len) := by
  simp [EncodesItsRow.Statement, encodeEvent, encodeField, Instr.mnemonic]

theorem EncodesItsRow.fPayload (bytes : List Byte) : EncodesItsRow.Statement (.fPayload bytes) := by
  simp [EncodesItsRow.Statement, encodeEvent, encodeField, Instr.mnemonic]

end Sys2Proof.Laws
end

