-- ==== Sys2Proof/Laws/Step.lean ====
section
/-! SUPPORT. What `fetch` finds and what `exec` can do, once for all instructions. -/

namespace Sys2Proof.Machine

theorem fetch_eq_reset {s : State} (h : fetch s = .reset) : s.port.rst = true := by
  unfold fetch at h
  split at h
  · assumption
  · split at h
    · cases h
    · split at h <;> cases h

theorem fetch_eq_event {s : State} {i : Instr} (h : fetch s = .event i) :
    s.port.rst = false ∧ s.port.evValid = true ∧ i = decodeEvent s.port.ev := by
  unfold fetch at h
  split at h
  · cases h
  · split at h
    · cases h
      simp_all
    · split at h <;> cases h

theorem fetch_eq_field {s : State} {i : Instr} {rest : List Byte} (h : fetch s = .field i rest) :
    s.port.rst = false ∧ s.port.evValid = false ∧ i.isEvent = false ∧
      decodeField s.rx.current.len.toNat s.rx.stream = .instr i rest := by
  unfold fetch at h
  split at h
  · cases h
  · split at h
    · cases h
    · split at h <;> cases h
      rename_i hd
      exact ⟨by simp_all, by simp_all, decodeField_isEvent hd, hd⟩

theorem fetch_eq_wait {s : State} (h : fetch s = .wait) : s.port.rst = false ∧ s.port.evValid = false := by
  unfold fetch at h
  split at h
  · cases h
  · split at h
    · cases h
    · simp_all

/-- Nothing that the receiver can read: the step waits. -/
theorem fetch_of_no_field {s : State} (hr : s.port.rst = false) (he : s.port.evValid = false)
    (h : ∀ i rest, decodeField s.rx.current.len.toNat s.rx.stream ≠ .instr i rest) : fetch s = .wait := by
  unfold fetch
  simp only [hr, he, Bool.false_eq_true, if_false]
  split
  · exact absurd ‹_› (h _ _)
  · rfl
  · rfl

theorem step_of_wait {s : State} (hl : s.params.Legal) (h : fetch s = .wait) : step s = .next s.quiet.advance := by
  rw [step, if_pos hl, h]

/-- What a step that waits leaves: the block, and all that the receiver has. -/
theorem quiet_advance_keeps (s : State) :
    KeepsReceiver s.arriving s s.quiet.advance ∧ KeepsBlock s s.quiet.advance ∧ s.quiet.advance.out = .zero := by
  simp [KeepsReceiver, KeepsBlock, KeepsBatch, KeepsFrame, KeepsBytes, KeepsTransaction]

/-- A field of the wire format always answers a next state. -/
theorem exec_field_isNext {i : Instr} (hi : i.isEvent = false) (s : State) : ∃ t, exec i s = .next t := by
  cases i <;> first | exact ⟨_, rfl⟩ | cases hi

/-- A SAMPLE that completes a block whose triplet fits in the frame: APPEND's write, its cursor, then SEND if full. -/
theorem exec_sample_of_last {x y z : Half} {s : State} (hr : s.rem ≠ 0) (hp : s.phase = 4)
    (hc : s.cursor.toNat + numAxes ≤ s.cap) :
    ∃ u, storeTriplet (blockOutput (s.quiet.takeSample ⟨x, y, z⟩)) (s.quiet.takeSample ⟨x, y, z⟩) = some u ∧
      exec (.sample x y z) s = .next (sendIfFull (advanceCursor u)) := by
  have hu := (storeTriplet_eq_some_iff (blockOutput (s.quiet.takeSample ⟨x, y, z⟩))
    (s.quiet.takeSample ⟨x, y, z⟩) _).mpr ⟨hc, rfl⟩
  exact ⟨_, hu, (execSample_of_last hr hp).trans
    ((completeBlock_eq_next_iff _ _).mpr ⟨_, (append_eq_some_iff _ _ _).mpr ⟨_, hu, rfl⟩, rfl⟩)⟩

/-- What an instruction that answers a next state has done to the block: it left the frame, the cursor and the counter
alone, with no full signal and no message, and changed the transaction at most by ending it; or it was a SAMPLE that
completed a block. -/
theorem exec_next_cases {i : Instr} {s t : State} (h : exec i s = .next t) :
    (t.frame = s.frame ∧ t.cursor = s.cursor ∧ t.byteCount = s.byteCount ∧ t.params = s.params ∧
        t.port = s.port ∧ t.upcoming = s.upcoming ∧ t.out.frameFull = false ∧ t.out.txValid = false ∧
        ((t.pending = s.pending ∧ t.curId = s.curId) ∨
          ((i = .txok ∨ ∃ reason, i = .txfail reason) ∧ t.pending = false ∧ t.curId = absentId))) ∨
      ∃ x y z, i = .sample x y z ∧ s.rem ≠ 0 ∧ s.phase = 4 ∧
        ∃ u, storeTriplet (blockOutput (s.quiet.takeSample ⟨x, y, z⟩)) (s.quiet.takeSample ⟨x, y, z⟩) = some u ∧
          t = sendIfFull (advanceCursor u) := by
  cases i with
  | sample x y z =>
    rcases execSample_next_cases h with ⟨-, rfl⟩ | ⟨-, -, rfl⟩ | ⟨hr, hp, v, hv, rfl⟩
    · left; simp [Outputs.zero]
    · left; simp [Outputs.zero]
    · obtain ⟨u, hu, rfl⟩ := (append_eq_some_iff _ _ _).mp hv
      exact .inr ⟨x, y, z, rfl, hr, hp, u, hu, rfl⟩
  | txok => cases h; left; simp [Outputs.zero]
  | txfail reason => cases h; left; simp [Outputs.zero]
  | _ => cases h; left; simp [Outputs.zero]

/-- A field of the wire format leaves the block and its outputs alone. -/
theorem exec_field_next {i : Instr} {s t : State} (hi : i.isEvent = false) (h : exec i s = .next t) :
    KeepsBlock s t ∧ t.out = .zero ∧ t.params = s.params ∧ t.port = s.port ∧ t.upcoming = s.upcoming ∧
      t.frame = s.frame := by
  cases i <;> simp [Instr.isEvent] at hi <;> cases h <;>
    simp [KeepsBlock, KeepsBatch, KeepsFrame, KeepsBytes, KeepsTransaction]

end Sys2Proof.Machine
end

