-- ==== Sys2Proof/Tests/Slice0.lean ====
section
/-! SUPPORT. Tests against spec/95_test_vectors.md and the spec's own examples: well-formedness, decoding, one step of
each instruction, and for each statement with hypotheses a witness that meets them. -/

open Sys2Proof Sys2Proof.Machine

namespace Sys2Proof.Tests

/-! ### Small states -/

/-- What `f` sees of the next state, where there is one. -/
def seen {α : Type} (f : State → α) : Outcome → Option α
  | .next t => some (f t)
  | .fault _ => none
  | .refused _ => none

/-- Levels: the channel ready or not, and the id presented. -/
def levels (txReady : Bool) (id : Int) : Env := { txReady := txReady, txnIdIn := BitVec.ofInt 32 id, tsIn := 0 }

/-- The state after reset at another SAMPLE_RATE, at the smallest ACC_W. -/
def resetAt (sampleRate : Nat) : State :=
  { State.reset with params := { sampleRate := sampleRate, shift := 4, accW := 17 } }

/-- T3, fourth row, one sample before its APPEND: CAP = 6, `cursor = 3`, frame (100, 0, 0, 9, 9, 9), four samples of
1600, 0, 0 collected, the channel ready with id 7. -/
def beforeFull : State :=
  { resetAt 2 with
    win := { s0 := ⟨1600, 0, 0⟩, s1 := ⟨1600, 0, 0⟩, s2 := ⟨1600, 0, 0⟩, s3 := ⟨1600, 0, 0⟩, s4 := ⟨1, 2, 3⟩ }
    phase := 4
    rem := 1
    frame := [(0, 100), (3, 9), (4, 9), (5, 9)]
    cursor := 3
    byteCount := 12
    port := .quiet (levels true 7) }

/-- The same with a transaction of id 5 outstanding. -/
def beforeFullPending : State := { beforeFull with pending := true, curId := 5 }

/-- The same with the channel busy. -/
def beforeFullBusy : State := { beforeFull with port := .quiet (levels false 7) }

/-- R102's example: CAP = 6, `cursor = 0`, the same block. -/
def beforeBlock : State := { beforeFull with frame := [], cursor := 0, byteCount := 0 }

/-- T8, `phase = 3`, `rem = 4`. -/
def collecting : State := { beforeFull with phase := 3, rem := 4 }

theorem inv_of_clauses (s : State) (frames : Nat) (hl : s.params.Legal) (hw : s.frame.wf) (hi : s.frame.within s.cap)
    (hc : s.cursor.toNat + numAxes ≤ s.cap ∧ s.cursor.toNat % numAxes = 0)
    (hid : -1 ≤ s.curId.toInt ∧ (s.pending = false → s.curId = absentId))
    (hb : s.byteCount.toNat = s.cap * frames % 2 ^ 32) : s.Inv :=
  ⟨hl, hw, hi, hc.1, hc.2, hid.1, hid.2, ⟨frames, hb⟩⟩

theorem test_beforeFull_inv : beforeFull.Inv :=
  inv_of_clauses _ 2 (by decide) (by decide) (by decide) (by decide) (by decide) (by decide)

theorem test_beforeFullPending_inv : beforeFullPending.Inv :=
  inv_of_clauses _ 2 (by decide) (by decide) (by decide) (by decide) (by decide) (by decide)

theorem test_beforeBlock_inv : beforeBlock.Inv :=
  inv_of_clauses _ 0 (by decide) (by decide) (by decide) (by decide) (by decide) (by decide)

/-! ### Well-formedness: each check refuses an ill-formed term -/

theorem test_negative_id_ill_formed : ¬ (Instr.fTxnid 0x80000000).WellFormed := by decide

theorem test_largest_id_well_formed : (Instr.fTxnid 0x7FFFFFFF).WellFormed := by decide

theorem test_long_payload_ill_formed : ¬ (Instr.fPayload (List.replicate 256 0)).WellFormed := by
  rw [Instr.WellFormed, payloadCountable, List.length_replicate]; decide

theorem test_longest_payload_well_formed : (Instr.fPayload (List.replicate 255 0)).WellFormed := by
  rw [Instr.WellFormed, payloadCountable, List.length_replicate]; decide

/-! ### Decoding: words written out from R71, R72 (T5) and R80 -/

theorem test_decode_nop : decodeEvent 0x0FFFFFFFFFFFFFFF = .nop := by decide

theorem test_decode_batch : decodeEvent 0x10000000FFFFFFFF = .batch 4294967295 := by decide

theorem test_decode_sample : decodeEvent 0x20000040FFE00020 = .sample 32 (-32) 64 := by decide

theorem test_decode_sample_reserved : decodeEvent 0x2FFF000000000640 = .sample 1600 0 0 := by decide

theorem test_decode_txok : decodeEvent 0x3000000000000300 = .txok := by decide

theorem test_decode_txfail : decodeEvent 0x300000000000FF01 = .txfail 255 := by decide

theorem test_decode_rdcnt : decodeEvent 0x4000000000000000 = .rdcnt := by decide

theorem test_decode_rdfrm : decodeEvent 0x50000000000001FF = .rdfrm 255 := by decide

theorem test_decode_rdstat : decodeEvent 0x6000000000000000 = .rdstat := by decide

theorem test_decode_rdtxid : decodeEvent 0x7000000000000000 = .rdtxid := by decide

theorem test_decode_reserved :
    [0x8000000000000000, 0x9000000000000000, 0xA000000000000000, 0xB000000000000000, 0xC000000000000000,
      0xD000000000000000, 0xE000000000000000, 0xFFFFFFFFFFFFFFFF].map decodeEvent =
      [.rsvd8, .rsvd9, .rsvdA, .rsvdB, .rsvdC, .rsvdD, .rsvdE, .rsvdF] := by decide

/-- The tag and the four bytes of 0x12345678 (T6). -/
theorem test_decode_fTxnid :
    decodeField 0 [0x01, 0x78, 0x56, 0x34, 0x12, 0x02] = .instr (.fTxnid 0x12345678) [0x02] := by decide

theorem test_decode_fLen : decodeField 0 [0x02, 0x3C, 0x03] = .instr (.fLen 60) [0x03] := by decide

theorem test_decode_fPayload :
    decodeField 3 [0x03, 0xF6, 0xEC, 0xE2, 0x01] = .instr (.fPayload [0xF6, 0xEC, 0xE2]) [0x01] := by decide

theorem test_decode_no_tag : decodeField 3 [0x00, 1] = .unknownTag 0 ∧ decodeField 3 [0x04] = .unknownTag 4 := by decide

/-- The words of P1 to P3 for TXFAIL 3 and for the sample -100, 3000, -3000. -/
theorem test_encode_events :
    encodeEvent (.txfail 3) = some 0x3000000000000301 ∧
      encodeEvent (.sample (-100) 3000 (-3000)) = some 0x2000F4480BB8FF9C := by decide

/-- R81's first message. -/
theorem test_serialise :
    serialise { id := some 7, len := 6, payload := [100, 0, 0, 100, 0, 0] } =
      [0x01, 0x07, 0, 0, 0, 0x02, 0x06, 0x03, 0x64, 0, 0, 0x64, 0, 0] := by decide

theorem test_tableWord :
    decodeTableWord 64 0x3000000000000001 = some (.txfail 0) ∧ decodeTableWord 8 2 = some (.fLen 0) ∧
      decodeTableWord 8 3 = some (.fPayload []) ∧ decodeTableWord 8 1 = some (.fTxnid 0) ∧
      decodeTableWord 8 4 = none := by decide

/-! ### FIR5 and QUANT (T1, T2) -/

theorem test_fir_ends :
    firSum 32767 32767 32767 32767 32767 = 32765 ∧ firSum (-33) (-33) (-33) (-33) (-33) = -35 := by decide

theorem test_fir_order :
    firSum (-100) 200 (-300) 400 (-500) = -38 ∧ firSum 1000 2000 3000 4000 5000 = 3000 := by decide

theorem test_fir_impulses :
    [firSum 32 0 0 0 0, firSum 0 32 0 0 0, firSum 0 0 32 0 0, firSum 0 0 0 32 0, firSum 0 0 0 0 32] =
      [1, 7, 16, 7, 1] := by decide

theorem test_quant_bounds :
    [2031, 2032, 2033, 2048, -2032, -2033, -2048, -2049, -1, -17].map (fun v => sext8 (quant 4 v)) =
      [126, 127, 127, 127, -127, -128, -128, -128, -1, -2] := by decide

theorem test_quant_other_shifts :
    [quant 0 128, quant 0 (-129), quant 8 32765, quant 8 (-257), quant 8 255].map sext8 = [127, -128, 127, -2, 0] := by
  decide

/-! ### One step of each instruction -/

theorem test_nop_clears_outputs :
    seen (·.out) (exec .nop { beforeFull with out := { Outputs.zero with rdValid := true } }) = some .zero := by decide

/-- T8: an open batch is abandoned. -/
theorem test_batch : seen (fun t => (t.phase, t.rem, t.cursor)) (exec (.batch 5) collecting) = some (0, 5, 3) := by
  decide

/-- T8: the fourth sample of a block. -/
theorem test_sample_collected :
    seen (fun t => (t.phase, t.rem, t.win.s3)) (exec (.sample 1 2 3) collecting) = some (4, 3, ⟨1, 2, 3⟩) := by decide

/-- T3, fourth row, and T4, first row, at CAP = 6. -/
theorem test_sample_fills_frame :
    seen (fun t => (frameBytes t, t.cursor, t.byteCount, t.pending, t.curId, t.out.txMsg))
        (exec (.sample 1600 0 0) beforeFull) =
      some ([100, 0, 0, 100, 0, 0], 0, 18, true, 7,
        { id := some 7, len := 6, payload := [100, 0, 0, 100, 0, 0] }) := by decide

theorem test_txok : seen (fun t => (t.pending, t.curId)) (exec .txok beforeFullPending) = some (false, 0xFFFFFFFF) := by
  decide

theorem test_txfail :
    seen (fun t => (t.pending, t.curId, t.out)) (exec (.txfail 255) beforeFullPending) =
      some (false, 0xFFFFFFFF, .zero) := by decide

theorem test_rdcnt :
    seen (·.out.rdata) (exec .rdcnt { beforeFull with byteCount := 180 }) = some 0x000000B4 := by decide

/-- T7: -128 reads as 0x80, not sign-extended; at CAP = 6 index 6 reads 0. -/
theorem test_rdfrm :
    seen (·.out.rdata) (exec (.rdfrm 5) { beforeFull with frame := [(5, 0x80), (6, 1)] }) = some 0x00000080 ∧
      seen (·.out.rdata) (exec (.rdfrm 6) { beforeFull with frame := [(5, 0x80), (6, 1)] }) = some 0 := by decide

theorem test_rdstat :
    seen (·.out.rdata)
      (exec .rdstat { State.reset with pending := true, curId := 7, cursor := 57, phase := 4 }) = some 0x00043903 := by
  decide

theorem test_rdstat_no_id :
    seen (·.out.rdata)
      (exec .rdstat { State.reset with pending := true, curId := absentId }) = some 0x00000001 := by decide

theorem test_rdtxid :
    seen (·.out.rdata) (exec .rdtxid { beforeFullPending with curId := 0x7FFFFFFF }) = some 0x7FFFFFFF := by decide

theorem test_reserved_all_zero :
    [Instr.rsvd8, .rsvd9, .rsvdA, .rsvdB, .rsvdC, .rsvdD, .rsvdE, .rsvdF].map
        (fun i => seen (fun t => (t.out, t.pending, t.cursor)) (exec i beforeFullPending)) =
      List.replicate 8 (some (.zero, true, 3)) := by decide

theorem test_fTxnid : seen (·.rx.id) (exec (.fTxnid 7) beforeFull) = some (some 7) := by decide

theorem test_fLen : seen (·.rx.len) (exec (.fLen 6) beforeFull) = some 6 := by decide

theorem test_fPayload :
    seen (fun t => (t.rx.payload, t.rx.complete, t.cursor)) (exec (.fPayload [100, 0]) beforeFull) =
      some ([100, 0], true, 3) := by decide

/-- Levels for a script's events before its first ENV line: those of the last cycle listed before it (log 22). -/
theorem test_loadScript_levels :
    (({ beforeFull with upcoming := [eventCycle (levels false 5) 0] } : State).loadScript
        [.event .rdcnt, .env true 9, .batchOf 1 1600 0 0]).upcoming.map (fun c => (c.port.ev, c.port.env)) =
      [(0, levels false 5), (0x4000000000000000, levels false 5), (0x1000000000000001, levels true 9),
        (0x2000000000000640, levels true 9)] := by decide

/-- R101's example word as the first instruction after reset. -/
theorem test_withFetchWord_event :
    seen (fun t => (t.rem, t.port.evValid)) (step (State.reset.withFetchWord 64 0x100000000000000A)) =
      some (10, false) := by decide

theorem test_withFetchWord_field :
    seen (fun t => (t.rx.id, t.rx.stream)) (step (State.reset.withFetchWord 8 1)) = some (some 0, []) := by decide

/-! ### Witnesses: a state and operands that meet each statement's hypotheses -/

theorem test_witness_DecodeInvertsEncode :
    (Instr.sample (-1) (-32768) 32767).WellFormed ∧ (Instr.sample (-1) (-32768) 32767).isEvent = true ∧
      (Instr.fTxnid 0x7FFFFFFF).WellFormed ∧ (Instr.fTxnid 0x7FFFFFFF).isEvent = false ∧
      (Instr.fPayload (List.replicate 255 0)).WellFormed ∧ (Instr.fPayload (List.replicate 255 0)).isEvent = false :=
  ⟨by decide, by decide, by decide, by decide, test_longest_payload_well_formed, rfl⟩

/-- T5: bits 59..32 of BATCH, bits 15..8 of TXOK. -/
theorem test_witness_ReservedBitsHaveNoEffect :
    (0x1ABCDEF00000000A : EventWord) &&& formatBits (decodeEvent 0x1ABCDEF00000000A) =
        0x100000000000000A &&& formatBits (decodeEvent 0x1ABCDEF00000000A) ∧
      (0x3000000000000000 : EventWord) &&& formatBits (decodeEvent 0x3000000000000000) =
        0x3000000000000300 &&& formatBits (decodeEvent 0x3000000000000000) := by decide

theorem test_witness_OperandsAreTheirFields :
    [0x1ABCDEF00000000A, 0x20007FFF8000FFFF, 0x3000000000000300, 0x300000000000FF01, 0x4000000000000000,
      0x50000000000001FF, 0x6000000000000000, 0x7FFFFFFFFFFFFFFF].map
      (fun w : EventWord => (w.toNat / 2 ^ 60, w.toNat % 2)) =
      [(1, 0), (2, 1), (3, 0), (3, 1), (4, 0), (5, 1), (6, 0), (7, 1)] := by decide

theorem test_witness_FieldPrefixIsIncomplete :
    (Instr.fTxnid 7).isEvent = false ∧ 4 < (encodeField (.fTxnid 7)).length ∧
      (Instr.fPayload []).isEvent = false ∧ 0 < (encodeField (.fPayload [])).length := by decide

/-- A payload of two bytes of which one has arrived, after a length field of 2. -/
theorem test_witness_FieldPrefixIsIncomplete_step :
    let s : State := { beforeFull with rx := { Receiver.idle [0x03, 100] with len := 2 } }
    (Instr.fPayload [100, 0]).isEvent = false ∧ 2 < (encodeField (.fPayload [100, 0])).length ∧
      s.params.Legal ∧ s.port.rst = false ∧ s.port.evValid = false ∧
      s.rx.stream = (encodeField (.fPayload [100, 0])).take 2 ∧
      s.rx.current.len.toNat = ([100, 0] : List Byte).length := by decide

theorem test_witness_StepRunsDecodedEvent :
    (beforeFull.presentEvent 0x2000000000000640).params.Legal ∧
      (beforeFull.presentEvent 0x2000000000000640).port.rst = false ∧
      (beforeFull.presentEvent 0x2000000000000640).port.evValid = true := by decide

/-- The id field of R81's first message, more following. -/
theorem test_witness_StepRunsReceivedField :
    let s : State := { beforeFull with rx := .idle [0x01, 7, 0, 0, 0, 0x02] }
    s.params.Legal ∧ s.port.rst = false ∧ s.port.evValid = false ∧
      decodeField s.rx.current.len.toNat s.rx.stream = .instr (.fTxnid 7) [0x02] := by decide

/-- With a byte in front of the receiver that is no tag, too. -/
theorem test_witness_NoEventNoChange :
    ∀ stream ∈ ([[], [0x04]] : List (List Byte)),
      let s : State := { beforeFull with rx := .idle stream }
      s.params.Legal ∧ s.port.rst = false ∧ s.port.evValid = false := by decide

/-- An event stands on the port while `rst = 1`. -/
theorem test_witness_ResetInputForcesResetValues_and_ResetKeepsOutside :
    let s : State := { beforeFullPending with port := { rst := true, evValid := true, ev := 0x100000000000000A, env := levels true 7 } }
    s.params.Legal ∧ s.port.rst = true := by decide

theorem test_witness_IllegalParametersRefused :
    (resetAt 0).params.sampleRate = 0 ∧ (resetAt 86).params.sampleRate > 85 ∧ ¬ (resetAt 0).params.Legal ∧
      ¬ (resetAt 86).params.Legal ∧ (resetAt 1).params.Legal ∧ (resetAt 85).params.Legal ∧
      ¬ ({ sampleRate := 1, shift := 9, accW := 17 } : Params).Legal ∧
      ({ sampleRate := 1, shift := 8, accW := 17 } : Params).Legal ∧
      ¬ ({ sampleRate := 1, shift := 0, accW := 16 } : Params).Legal := by decide

/-- R35: a byte that is no tag stops the receiver alone, and the event of the next cycle runs. -/
theorem test_unknownTag_then_event :
    seen (fun t => (t.rem, t.rx.stream))
      (runSteps 2
        { beforeFull with
          rx := .idle [0x04, 0x02, 6]
          upcoming := [eventCycle (levels true 7) 0x100000000000000A] }) = some (10, [0x04, 0x02, 6]) := by decide

/-- The values next to the three tags, and the largest. -/
theorem test_witness_UnknownTagHoldsReceiver :
    ∀ tag ∈ ([0x00, 0x04, 0xFF] : List Byte),
      let s : State := { beforeFull with rx := .idle [tag, 1] }
      s.params.Legal ∧ s.port.rst = false ∧ s.port.evValid = false ∧ s.rx.stream = tag :: [1] ∧
        (tag.toNat = 0 ∨ 3 < tag.toNat) := by decide

theorem test_witness_opcodes :
    opcodeOf 0x0FFFFFFFFFFFFFFF = 0x0 ∧ opcodeOf 0x1ABCDEF00000000A = 0x1 ∧ opcodeOf 0x300000000000FF01 = 0x3 ∧
      statusOf 0x300000000000FF01 = 1 ∧ opcodeOf 0x3000000000000300 = 0x3 ∧ statusOf 0x3000000000000300 = 0 ∧
      opcodeOf 0x4000000000000000 = 0x4 ∧ opcodeOf 0x50000000000001FF = 0x5 ∧ opcodeOf 0x6000000000000000 = 0x6 ∧
      opcodeOf 0x7000000000000000 = 0x7 ∧ (0x8000000000000000 : EventWord).getLsbD 63 = true ∧
      (0xFFFFFFFFFFFFFFFF : EventWord).getLsbD 63 = true := by decide

/-- T8: `phase = 2`, `rem = 0`. -/
theorem test_witness_SampleOutsideBatchIgnored : ({ beforeFull with phase := 2, rem := 0 } : State).rem = 0 := by decide

/-- The first and the fourth sample of a block. -/
theorem test_witness_SampleCollected :
    collecting.rem ≠ 0 ∧ collecting.phase.val < 4 ∧ ({ collecting with phase := 0, rem := 1 } : State).rem ≠ 0 ∧
      ({ collecting with phase := 0, rem := 1 } : State).phase.val < 4 := by decide

/-- The last place of the frame and the first. -/
theorem test_witness_SampleCompletesBlock :
    ∀ s ∈ [beforeFull, beforeBlock],
      s.params.Legal ∧ s.frame.wf ∧ s.rem ≠ 0 ∧ s.phase = 4 ∧ s.cursor.toNat + 3 ≤ s.cap := by decide

/-- At CAP = 60, the last place but one (T3, last row). -/
theorem test_witness_SampleNotFullAdvancesCursor :
    let s : State := { beforeFull with params := .reference, cursor := 54 }
    s.params.Legal ∧ s.rem ≠ 0 ∧ s.phase = 4 ∧ s.cursor.toNat + 3 < s.cap := by decide

theorem test_witness_SampleFullFrameDropped :
    ∀ s ∈ [beforeFullPending, beforeFullBusy],
      s.rem ≠ 0 ∧ s.phase = 4 ∧ s.cursor.toNat + 3 = s.cap ∧ (s.pending = true ∨ s.port.env.txReady = false) := by
  decide

/-- The id levels of T4: 7, 0, 2147483647, -1, -2147483648. -/
theorem test_witness_SampleFullFrameBegins :
    ∀ id ∈ ([7, 0, 2147483647, -1, -2147483648] : List Int),
      let s : State := { beforeFull with port := .quiet (levels true id) }
      s.params.Legal ∧ s.rem ≠ 0 ∧ s.phase = 4 ∧ s.cursor.toNat + 3 = s.cap ∧ s.pending = false ∧
        s.port.env.txReady = true ∧ s.port.env.txnIdIn.toInt = id := by decide

/-- Both ends of the frame at CAP = 6, and the counter at its wrap (T3). -/
theorem test_witness_AppendRule :
    ∀ s ∈ [beforeBlock, beforeFull, { beforeFull with byteCount := 4294967292 }],
      s.params.Legal ∧ s.frame.wf ∧ s.cursor.toNat + 3 ≤ s.cap ∧ s.out.frameFull = false := by decide

theorem test_witness_SendRule :
    (resetAt 85).cap < 2 ^ 8 ∧ (resetAt 85).out.txValid = false ∧
      beforeFullPending.cap < 2 ^ 8 ∧ beforeFullPending.out.txValid = false ∧ beforeFullPending.pending = true ∧
      beforeFullBusy.cap < 2 ^ 8 ∧ beforeFullBusy.out.txValid = false ∧ beforeFullBusy.pending = false ∧
      beforeFullBusy.port.env.txReady = false ∧
      beforeFull.cap < 2 ^ 8 ∧ beforeFull.out.txValid = false ∧ beforeFull.pending = false ∧ beforeFull.port.env.txReady = true ∧
      0 ≤ beforeFull.port.env.txnIdIn.toInt ∧ (levels true (-1)).txnIdIn.toInt < 0 ∧
      0 ≤ (levels true 0).txnIdIn.toInt := by decide

/-- A SAMPLE that completes a block and does not fill the frame. -/
theorem test_witness_SendRule_levels :
    ¬ ((∃ x y z, Instr.sample 1 2 3 = .sample x y z) ∧ beforeBlock.rem ≠ 0 ∧ beforeBlock.phase = 4 ∧
      beforeBlock.cursor.toNat + 3 = beforeBlock.cap) :=
  fun h => absurd h.2.2.2 (by decide)

theorem test_witness_FirSumsItsTaps : 17 ≤ beforeFull.params.accW ∧ 17 ≤ Params.reference.accW := by decide

theorem test_witness_AccumulatorWidthUnobservable : 17 ≤ beforeFull.params.accW ∧ 17 ≤ 64 := by decide

/-- Both bounds at SHIFT = 4, and the values next to them. -/
theorem test_witness_QuantRule :
    (127 * 2 ^ 4 : Int) < 2033 ∧ (-2049 : Int) < -128 * 2 ^ 4 ∧ -128 * 2 ^ 4 ≤ (-2048 : Int) ∧
      (2032 : Int) ≤ 127 * 2 ^ 4 := by decide

theorem test_witness_QuantContract :
    (127 * 2 ^ 4 : Int) ≤ 2032 ∧ (-2048 : Int) ≤ -128 * 2 ^ 4 ∧ -128 * 2 ^ 4 < (-2047 : Int) ∧
      (2031 : Int) < 127 * 2 ^ 4 ∧ (-2047 : Int) ≤ 2031 := by decide

theorem test_witness_CompletionWhileIdleIsNoOp :
    beforeFull.pending = false ∧ beforeFull.curId = absentId := by decide

/-- The last index of the frame and the first outside it, at CAP = 60. -/
theorem test_witness_RdfrmAnswersFrameByte :
    (59 : Byte).toNat < State.reset.cap ∧ State.reset.cap ≤ (60 : Byte).toNat ∧
      State.reset.cap ≤ (255 : Byte).toNat := by decide

/-- Idle, and with an id held. -/
theorem test_witness_RdtxidAnswersCurrentId :
    beforeFull.Inv ∧ beforeFull.pending = false ∧ idPresent beforeFull.curId = false ∧
      beforeFullPending.Inv ∧ idPresent beforeFullPending.curId = true :=
  ⟨test_beforeFull_inv, by decide, by decide, test_beforeFullPending_inv, by decide⟩

theorem test_witness_ReadsAreIdempotent :
    ∀ i ∈ [Instr.rdcnt, .rdfrm 255, .rdstat, .rdtxid],
      i = .rdcnt ∨ i = .rdfrm 255 ∨ i = .rdstat ∨ i = .rdtxid := by decide

/-- A receiver with a message's serialisation and one more byte in its stream, fresh or done with a message. -/
def receiving (m : Message) (done : Bool) : State :=
  { beforeFull with rx := { Receiver.idle (serialise m ++ [1]) with complete := done } }

/-- R81's second message, for a fresh receiver. -/
theorem test_witness_ReceiverReadsWhatWasSerialised :
    let m : Message := { id := none, len := 6, payload := [127, 128, 255, 0, 1, 253] }
    let s := receiving m false
    s.params.Legal ∧ s.port.rst = false ∧ s.port.evValid = false ∧ s.upcoming = [] ∧
      s.rx.current = .idle (serialise m ++ [1]) ∧ m.len.toNat = m.payload.length ∧
      (∀ id, m.id = some id → 0 ≤ id.toInt) :=
  ⟨by decide, by decide, by decide, by decide, by decide, by decide, fun _ h => by cases h⟩

/-- The largest id and an empty payload, for a receiver that has finished a message. -/
theorem test_witness_ReceiverReadsWhatWasSerialised_next :
    let m : Message := { id := some 0x7FFFFFFF, len := 0, payload := [] }
    let s := receiving m true
    s.params.Legal ∧ s.port.rst = false ∧ s.port.evValid = false ∧ s.upcoming = [] ∧
      s.rx.current = .idle (serialise m ++ [1]) ∧ m.len.toNat = m.payload.length ∧
      (∀ id, m.id = some id → 0 ≤ id.toInt) :=
  ⟨by decide, by decide, by decide, by decide, by decide, by decide, fun _ h => by cases h; decide⟩

/-- A message goes out: the step of P1's last sample. -/
def fullStep : State := beforeFull.presentEvent 0x2000000000000640

theorem test_fullStep_next : ∃ t, step fullStep = .next t ∧ t.out.txValid = true ∧ t.out.frameFull = true :=
  ⟨_, rfl, by decide, by decide⟩

theorem test_fullStep_inv : fullStep.Inv :=
  inv_of_clauses _ 2 (by decide) (by decide) (by decide) (by decide) (by decide) (by decide)

theorem test_witness_StepKeepsInvariant : fullStep.Inv ∧ ∃ t, step fullStep = .next t :=
  ⟨test_fullStep_inv, _, rfl⟩

theorem test_witness_EveryInstructionCompletes :
    fullStep.Inv ∧ beforeFullPending.Inv := ⟨test_fullStep_inv, test_beforeFullPending_inv⟩

/-- The begin, and TXOK and reset from SendPending. -/
theorem test_witness_OneTransactionAtATime :
    (∃ t, step fullStep = .next t ∧ t.out.txValid = true ∧ fullStep.pending = false ∧ t.pending = true) ∧
      (∃ t, step (beforeFullPending.presentEvent 0x3000000000000000) = .next t ∧ t.pending = false) ∧
      ∃ t, step { beforeFullPending with port := { beforeFullPending.port with rst := true } } = .next t ∧
        t.pending = false :=
  ⟨⟨_, rfl, by decide⟩, ⟨_, rfl, by decide⟩, ⟨_, rfl, by decide⟩⟩

theorem test_witness_CounterCountsFullFrames :
    fullStep.port.rst = false ∧ ∃ t, step fullStep = .next t ∧ t.byteCount = 18 := ⟨by decide, _, rfl, by decide⟩

theorem test_witness_FullSignalOnlyWhenCursorReachesCap :
    fullStep.Inv ∧ fullStep.port.rst = false ∧ ∃ t, step fullStep = .next t ∧ t.out.frameFull = true :=
  ⟨test_fullStep_inv, by decide, _, rfl, by decide⟩

theorem test_witness_OnlyBlockCompletionWritesFrame :
    fullStep.frame.wf ∧ fullStep.port.rst = false ∧
      ∃ t, step fullStep = .next t ∧ t.frame.read 5 ≠ fullStep.frame.read 5 :=
  ⟨by decide, by decide, _, rfl, by decide⟩

/-- `phase = 2`: `win[2]` to `win[4]` hold no sample of the block. -/
theorem test_witness_UncollectedWindowUnobservable :
    let s : State := { beforeFull with phase := 2 }
    let t : State := { s with win := { s.win with s2 := ⟨7, 8, 9⟩, s4 := ⟨0, 0, 0⟩ } }
    AgreeOnCollected s t ∧ s ≠ t ∧ ∃ s', step s = .next s' :=
  ⟨⟨rfl, by decide⟩, by decide, _, rfl⟩

theorem test_witness_FiveSamplesStoreTheirTriplet :
    let s : State := { beforeFull with phase := 0, rem := 5 }
    s.Inv ∧ s.phase = 0 ∧ 5 ≤ s.rem.toNat :=
  ⟨inv_of_clauses _ 2 (by decide) (by decide) (by decide) (by decide) (by decide) (by decide), by decide, by decide⟩

/-- CAP = 3: five samples fill the frame, at the smallest `rem`. -/
theorem test_witness_FrameLengthLaw :
    let s : State := { resetAt 1 with rem := 5 }
    let samples : List (Env × RawSample) := List.replicate 5 (levels true 3, ⟨160, 320, 480⟩)
    s.Inv ∧ s.cursor = 0 ∧ s.phase = 0 ∧ samples.length = 5 * s.params.sampleRate ∧ samples.length ≤ s.rem.toNat :=
  ⟨inv_of_clauses _ 0 (by decide) (by decide) (by decide) (by decide) (by decide) (by decide), by decide, by decide,
    by decide, by decide⟩

/-- A batch of 7: one block and a remainder of two (S5). -/
theorem test_witness_BatchLevelView :
    beforeFull.Inv ∧ (List.replicate 7 (levels true (-1), (⟨32, -32, 64⟩ : RawSample))).length < 2 ^ 32 :=
  ⟨test_beforeFull_inv, by decide⟩

/-- BATCH 10 and a SAMPLE, presented from outside. -/
theorem test_witness_EventRunsAreMachineRuns :
    let events : List (Env × EventWord) :=
      [(levels true 7, 0x100000000000000A), (levels false 0, 0x2000000000000640)]
    let s : State := { resetAt 2 with upcoming := events.map fun e => eventCycle e.1 e.2 }
    s.params.Legal ∧ s.port.rst = false ∧ s.port.evValid = false ∧ s.rx.stream = [] ∧
      s.upcoming = events.map (fun e => eventCycle e.1 e.2) ∧
      ∃ t outs, runEvents (events.map fun e => (e.1, decodeEvent e.2)) s.quiet = some (t, outs) ∧ t.phase = 1 :=
  ⟨by decide, by decide, by decide, by decide, rfl, _, _, rfl, by decide⟩

end Sys2Proof.Tests
end

section
/-! Reset as a step of the machine (R34, R37, R200). -/

namespace Sys2Proof.Machine

/-- `rst` is looked at before the event port and the receiver (R37). -/
theorem fetch_of_rst {s : State} (hr : s.port.rst = true) : fetch s = .reset := by
  rw [fetch, if_pos hr]

theorem step_of_rst {s : State} (hl : s.params.Legal) (hr : s.port.rst = true) :
    step s = .next s.applyReset.advance := by
  rw [step, if_pos hl, fetch_of_rst hr]

/-- The absent id is the signed value -1 (R29). -/
theorem absentId_toInt : absentId.toInt = -1 := by decide

/-- After reset no address of the frame is listed, and the value of an unlisted one is R34's 0. -/
theorem State.applyReset_frame_read (s : State) (a : Nat) : s.applyReset.frame.read a = 0 := by
  rw [State.applyReset_frame, Memory.read_nil, unlistedByte]

/-- Settles O12: with `rst` the step is reset and then the taking in of the next inputs, which leaves the block and its
outputs alone. -/
theorem resetInputForcesResetValues : Obligations.ResetInputForcesResetValues := by
  intro s hl hr
  refine ⟨s.applyReset.advance, step_of_rst hl hr, ?_⟩
  simp only [State.advance_phase, State.advance_rem, State.advance_frame, State.advance_cursor,
    State.advance_byteCount, State.advance_pending, State.advance_curId, State.advance_out]
  exact ⟨State.applyReset_phase s, State.applyReset_rem s, State.applyReset_frame_read s, State.applyReset_cursor s,
    State.applyReset_byteCount s, State.applyReset_pending s, absentId_toInt, State.applyReset_out s⟩

end Sys2Proof.Machine
end

section
/-! Facts about the event word: which bits the opcode map, a format and an operand look at (R70 to R77), and the
statements on decoding that follow from them. -/

namespace Sys2Proof

/-! ### The bits that select a row (R72) -/

/-- The word with the given opcode and status bit and every other bit 0. -/
def selectorWord (op : BitVec 4) (st : BitVec 1) : EventWord := opcodeWord op ||| place 64 st 0

/-- Masking an event word with the opcode's bits and bit 0 leaves its opcode and its status. -/
theorem and_selectorMask (w : EventWord) :
    w &&& 0xF000000000000001 = selectorWord (opcodeOf w) (statusOf w) := by
  unfold selectorWord opcodeWord opcodeOf statusOf bitField place
  ext k hk
  interval_cases k <;> simp

@[simp] theorem opcodeOf_selectorWord (op : BitVec 4) (st : BitVec 1) : opcodeOf (selectorWord op st) = op := by
  rw [selectorWord, opcodeOf_or_place _ _ _ (by decide), opcodeOf_opcodeWord]

@[simp] theorem statusOf_selectorWord : ∀ (op : BitVec 4) (st : BitVec 1), statusOf (selectorWord op st) = st := by
  decide

/-- No row of the map looks at a bit outside the opcode and bit 0. -/
theorem opcodeMap_mask_within : ∀ r ∈ opcodeMap, 0xF000000000000001 &&& r.mask = r.mask := by decide

theorem selects_iff_selectorWord {r : OpcodeRow} (hr : r ∈ opcodeMap) (w : EventWord) :
    r.Selects w ↔ r.Selects (selectorWord (opcodeOf w) (statusOf w)) := by
  rw [OpcodeRow.Selects, OpcodeRow.Selects, ← and_selectorMask, BitVec.and_assoc, opcodeMap_mask_within r hr]

/-- Which event a word is, its operands aside, depends on the opcode and the status bit alone (R70). -/
theorem mnemonic_decodeEvent_congr {w w' : EventWord} (hop : opcodeOf w' = opcodeOf w)
    (hst : statusOf w' = statusOf w) : (decodeEvent w').mnemonic = (decodeEvent w).mnemonic := by
  unfold decodeEvent
  rw [hop, hst]
  split
  case h_4 => split <;> rfl
  all_goals rfl

/-- The 32 words that are all opcode and status. -/
theorem selectorWord_selects_row_alone : ∀ (op : BitVec 4) (st : BitVec 1),
    ∃ r ∈ opcodeMap, r.Selects (selectorWord op st) ∧ r.mnemonic = (decodeEvent (selectorWord op st)).mnemonic ∧
      ∀ r' ∈ opcodeMap, r'.Selects (selectorWord op st) → r' = r := by
  decide

/-- Settles O3: selection and mnemonic depend on the opcode and bit 0 alone, so the 32 words that have nothing else
stand for all. -/
theorem everyWordSelectsItsRowAlone : Obligations.EveryWordSelectsItsRowAlone := by
  intro w
  obtain ⟨r, hr, hsel, hmnemonic, halone⟩ := selectorWord_selects_row_alone (opcodeOf w) (statusOf w)
  refine ⟨r, hr, (selects_iff_selectorWord hr w).mpr hsel, ?_, fun r' hr' hsel' => ?_⟩
  · rw [hmnemonic]
    exact mnemonic_decodeEvent_congr (opcodeOf_selectorWord _ _) (statusOf_selectorWord _ _)
  · exact halone r' hr' ((selects_iff_selectorWord hr' w).mp hsel')

/-! ### The decoder, one equation per opcode with an operand or a meaning (R72) -/

theorem decodeEvent_of_batch {w : EventWord} (h : opcodeOf w = 1) : decodeEvent w = .batch (countOf w) := by
  unfold decodeEvent; rw [h]; rfl

theorem decodeEvent_of_sample {w : EventWord} (h : opcodeOf w = 2) :
    decodeEvent w = .sample (xOf w) (yOf w) (zOf w) := by
  unfold decodeEvent; rw [h]; rfl

theorem decodeEvent_of_txok {w : EventWord} (h : opcodeOf w = 3) (hst : statusOf w = 0) : decodeEvent w = .txok := by
  unfold decodeEvent; rw [h, hst]; rfl

theorem decodeEvent_of_txfail {w : EventWord} (h : opcodeOf w = 3) (hst : statusOf w = 1) :
    decodeEvent w = .txfail (reasonOf w) := by
  unfold decodeEvent; rw [h, hst]; rfl

theorem decodeEvent_of_rdcnt {w : EventWord} (h : opcodeOf w = 4) : decodeEvent w = .rdcnt := by
  unfold decodeEvent; rw [h]; rfl

theorem decodeEvent_of_rdfrm {w : EventWord} (h : opcodeOf w = 5) : decodeEvent w = .rdfrm (idxOf w) := by
  unfold decodeEvent; rw [h]; rfl

theorem decodeEvent_of_rdstat {w : EventWord} (h : opcodeOf w = 6) : decodeEvent w = .rdstat := by
  unfold decodeEvent; rw [h]; rfl

theorem decodeEvent_of_rdtxid {w : EventWord} (h : opcodeOf w = 7) : decodeEvent w = .rdtxid := by
  unfold decodeEvent; rw [h]; rfl

theorem decodeEvent_isEvent (w : EventWord) : (decodeEvent w).isEvent = true := by
  unfold decodeEvent
  split
  case h_4 => split <;> rfl
  all_goals rfl

/-- Every event's format lists the opcode (R71). -/
theorem opcodeOf_formatBits {i : Instr} (h : i.isEvent = true) : opcodeOf (formatBits i) = BitVec.allOnes 4 := by
  cases i with
  | fTxnid id => cases h
  | fLen len => cases h
  | fPayload bytes => cases h
  | _ => rw [formatBits]; decide

/-! ### A field as arithmetic on the word (R9) -/

theorem bitField_toNat (w : EventWord) (lo width : Nat) :
    (bitField w lo width).toNat = w.toNat / 2 ^ lo % 2 ^ width := by
  rw [bitField, BitVec.extractLsb'_toNat, Nat.shiftRight_eq_div_pow]

theorem bitField_toInt (w : EventWord) (lo width : Nat) :
    (bitField w lo width).toInt = ((w.toNat / 2 ^ lo : Nat) : Int).bmod (2 ^ width) := by
  rw [BitVec.toInt_eq_toNat_bmod, bitField_toNat, Int.natCast_emod, Int.emod_bmod]

/-- The opcode is the top of the word: nothing stands above it. -/
theorem opcodeOf_eq_iff (w : EventWord) (op : BitVec 4) : opcodeOf w = op ↔ w.toNat / 2 ^ 60 = op.toNat := by
  rw [← BitVec.toNat_inj, opcodeOf, bitField_toNat]
  have := w.isLt
  omega

theorem statusOf_eq_iff (w : EventWord) (st : BitVec 1) : statusOf w = st ↔ w.toNat % 2 = st.toNat := by
  rw [← BitVec.toNat_inj, statusOf, bitField_toNat]
  omega

/-- Settles O5: each opcode's equation of the decoder, with its fields read as arithmetic. -/
theorem operandsAreTheirFields : Obligations.OperandsAreTheirFields := by
  intro w
  have opcode (op : BitVec 4) : w.toNat / 2 ^ 60 = op.toNat → opcodeOf w = op := (opcodeOf_eq_iff w op).mpr
  have status (st : BitVec 1) : w.toNat % 2 = st.toNat → statusOf w = st := (statusOf_eq_iff w st).mpr
  refine ⟨fun h => ⟨countOf w, decodeEvent_of_batch (opcode 1 h), ?_⟩,
    fun h => ⟨xOf w, yOf w, zOf w, decodeEvent_of_sample (opcode 2 h), ?_, bitField_toInt w 16 16,
      bitField_toInt w 32 16⟩,
    fun h => ⟨fun hst => decodeEvent_of_txok (opcode 3 h) (status 0 hst),
      fun hst => ⟨reasonOf w, decodeEvent_of_txfail (opcode 3 h) (status 1 hst), bitField_toNat w 8 8⟩⟩,
    fun h => decodeEvent_of_rdcnt (opcode 4 h),
    fun h => ⟨idxOf w, decodeEvent_of_rdfrm (opcode 5 h), ?_⟩,
    fun h => decodeEvent_of_rdstat (opcode 6 h),
    fun h => decodeEvent_of_rdtxid (opcode 7 h)⟩
  · simpa [countOf] using bitField_toNat w 0 32
  · simpa [Machine.sext16, xOf] using bitField_toInt w 0 16
  · simpa [idxOf] using bitField_toNat w 0 8

/-! ### Reserved bits are not decoded (R77) -/

theorem bitField_and (v w : EventWord) (lo width : Nat) :
    bitField (v &&& w) lo width = bitField v lo width &&& bitField w lo width := by
  rw [bitField, BitVec.extractLsb'_and]; rfl

/-- Words that agree on a mask agree on every field that the mask covers. -/
theorem bitField_eq_of_and_eq {w w' mask : EventWord} {lo width : Nat} (h : w &&& mask = w' &&& mask)
    (hmask : bitField mask lo width = BitVec.allOnes width) : bitField w' lo width = bitField w lo width := by
  have hfield := congrArg (bitField · lo width) h
  simpa [bitField_and, hmask] using hfield.symm

/-- Words with the same opcode decode alike if they agree on the operands that this opcode has. -/
theorem decodeEvent_congr {w w' : EventWord} (hop : opcodeOf w' = opcodeOf w)
    (hbatch : opcodeOf w = 1 → countOf w' = countOf w)
    (hsample : opcodeOf w = 2 → xOf w' = xOf w ∧ yOf w' = yOf w ∧ zOf w' = zOf w)
    (hstatus : opcodeOf w = 3 → statusOf w' = statusOf w)
    (hreason : opcodeOf w = 3 → statusOf w = 1 → reasonOf w' = reasonOf w)
    (hidx : opcodeOf w = 5 → idxOf w' = idxOf w) : decodeEvent w' = decodeEvent w := by
  unfold decodeEvent
  rw [hop]
  split
  case h_2 hop' => rw [hbatch hop']
  case h_3 hop' =>
    obtain ⟨hx, hy, hz⟩ := hsample hop'
    rw [hx, hy, hz]
  case h_4 hop' =>
    rw [hstatus hop']
    split
    · rfl
    · rw [hreason hop' ((BitVec.eq_zero_or_eq_one _).resolve_left ‹_›)]
  case h_6 hop' => rw [hidx hop']
  all_goals rfl

/-- R77 for the decoder: the bits that a word's format lists decide what it decodes to. -/
theorem decodeEvent_eq_of_agree_on_format {w w' : EventWord}
    (h : w &&& formatBits (decodeEvent w) = w' &&& formatBits (decodeEvent w)) : decodeEvent w' = decodeEvent w := by
  apply decodeEvent_congr
  case hop => exact bitField_eq_of_and_eq h (opcodeOf_formatBits (decodeEvent_isEvent w))
  case hbatch =>
    intro hop
    rw [decodeEvent_of_batch hop, formatBits] at h
    exact bitField_eq_of_and_eq h (by decide)
  case hsample =>
    intro hop
    rw [decodeEvent_of_sample hop, formatBits] at h
    exact ⟨bitField_eq_of_and_eq h (by decide), bitField_eq_of_and_eq h (by decide),
      bitField_eq_of_and_eq h (by decide)⟩
  case hstatus =>
    intro hop
    rcases BitVec.eq_zero_or_eq_one (statusOf w) with hst | hst
    · rw [decodeEvent_of_txok hop hst, formatBits] at h
      exact bitField_eq_of_and_eq h (by decide)
    · rw [decodeEvent_of_txfail hop hst, formatBits] at h
      exact bitField_eq_of_and_eq h (by decide)
  case hreason =>
    intro hop hst
    rw [decodeEvent_of_txfail hop hst, formatBits] at h
    exact bitField_eq_of_and_eq h (by decide)
  case hidx =>
    intro hop
    rw [decodeEvent_of_rdfrm hop, formatBits] at h
    exact bitField_eq_of_and_eq h (by decide)

end Sys2Proof
end

section
/-! What an instruction reads of the input ports: the two levels of SEND and nothing else (R35, R36, R141). So a step
depends on the event word through its decoded event alone. -/

namespace Sys2Proof.Machine

/-- `s` with its input ports changed by `f`. -/
def State.mapPort (f : Port → Port) (s : State) : State := { s with port := f s.port }

/-- `f` leaves the two levels that SEND reads alone (R141, R142). -/
def KeepsSendLevels (f : Port → Port) : Prop :=
  ∀ p, (f p).env.txReady = p.env.txReady ∧ (f p).env.txnIdIn = p.env.txnIdIn

theorem memWrite_mapPort (f : Port → Port) (a : Nat) (v : Byte) (s : State) :
    memWrite a v (s.mapPort f) = (memWrite a v s).map (State.mapPort f) := by
  have hcap : (s.mapPort f).cap = s.cap := rfl
  unfold memWrite
  rw [hcap]
  split <;> rfl

theorem storeTriplet_mapPort (f : Port → Port) (q : QuantizedSample) (s : State) :
    storeTriplet q (s.mapPort f) = (storeTriplet q s).map (State.mapPort f) := by
  have hcursor : (s.mapPort f).cursor = s.cursor := rfl
  unfold storeTriplet
  rw [memWrite_mapPort, hcursor]
  cases memWrite s.cursor.toNat q.x s with
  | none => rfl
  | some s1 =>
    simp only [Option.map_some, memWrite_mapPort]
    cases memWrite (s.cursor.toNat + 1) q.y s1 with
    | none => rfl
    | some s2 => exact memWrite_mapPort f _ q.z s2

theorem advanceCursor_mapPort (f : Port → Port) (s : State) :
    advanceCursor (s.mapPort f) = (advanceCursor s).mapPort f := by
  by_cases h : s.cursor.toNat + numAxes = s.cap
  · rw [advanceCursor_of_full h, advanceCursor_of_full (s := s.mapPort f) h]; rfl
  · rw [advanceCursor_of_not_full h, advanceCursor_of_not_full (s := s.mapPort f) h]; rfl

theorem append_mapPort (f : Port → Port) (q : QuantizedSample) (s : State) :
    append q (s.mapPort f) = (append q s).map (State.mapPort f) := by
  rw [append, append, storeTriplet_mapPort]
  simp only [Option.map_map]
  exact congrArg (Option.map · _) (funext (advanceCursor_mapPort f))

theorem beginTransaction_mapPort {f : Port → Port} (hf : KeepsSendLevels f) (s : State) :
    beginTransaction (s.mapPort f) = (beginTransaction s).mapPort f := by
  have hid : (s.mapPort f).port.env.txnIdIn = s.port.env.txnIdIn := (hf s.port).2
  unfold beginTransaction message
  rw [hid]; rfl

theorem send_mapPort {f : Port → Port} (hf : KeepsSendLevels f) (s : State) :
    send (s.mapPort f) = (send s).mapPort f := by
  have hpending : (s.mapPort f).pending = s.pending := rfl
  have hready : (s.mapPort f).port.env.txReady = s.port.env.txReady := (hf s.port).1
  unfold send
  rw [hpending, hready, beginTransaction_mapPort hf]
  split
  · rfl
  · split <;> rfl

theorem sendIfFull_mapPort {f : Port → Port} (hf : KeepsSendLevels f) (s : State) :
    sendIfFull (s.mapPort f) = (sendIfFull s).mapPort f := by
  have hfull : (s.mapPort f).out.frameFull = s.out.frameFull := rfl
  unfold sendIfFull
  rw [hfull, send_mapPort hf]
  split <;> rfl

theorem completeBlock_mapPort {f : Port → Port} (hf : KeepsSendLevels f) (s : State) :
    completeBlock (s.mapPort f) = mapNext (State.mapPort f) (completeBlock s) := by
  have hblock : blockOutput (s.mapPort f) = blockOutput s := rfl
  unfold completeBlock
  rw [hblock, append_mapPort]
  cases append (blockOutput s) s with
  | none => rfl
  | some t => exact congrArg Host.Outcome.next (sendIfFull_mapPort hf t)

theorem execSample_mapPort {f : Port → Port} (hf : KeepsSendLevels f) (x y z : Half) (s : State) :
    execSample x y z (s.mapPort f) = mapNext (State.mapPort f) (execSample x y z s) := by
  by_cases hr : s.rem = 0
  · rw [execSample_of_closed hr, execSample_of_closed (s := s.mapPort f) hr]; rfl
  · by_cases hp : s.phase < 4
    · rw [execSample_of_collecting hr hp, execSample_of_collecting (s := s.mapPort f) hr hp]; rfl
    · have hp4 : s.phase = 4 := by omega
      rw [execSample_of_last hr hp4, execSample_of_last (s := s.mapPort f) hr hp4]
      exact completeBlock_mapPort hf (s.quiet.takeSample ⟨x, y, z⟩)

/-- An instruction commutes with every change of the ports that keeps SEND's levels: only a SAMPLE looks at the ports
at all. -/
theorem exec_mapPort {f : Port → Port} (hf : KeepsSendLevels f) (i : Instr) (s : State) :
    exec i (s.mapPort f) = mapNext (State.mapPort f) (exec i s) := by
  cases i with
  | sample x y z => exact execSample_mapPort hf x y z s
  | _ => rfl

theorem mapNext_mapNext (f g : State → State) (o : Outcome) : mapNext f (mapNext g o) = mapNext (f ∘ g) o := by
  cases o <;> rfl

/-- The event on the port does not outlast the step: the next inputs replace all of the ports but the levels. -/
theorem State.presentEvent_advance (w : EventWord) (s : State) : (s.presentEvent w).advance = s.advance := by
  rw [State.advance, State.advance, State.presentEvent_upcoming]
  split <;> rfl

theorem fetch_presentEvent (w : EventWord) (s : State) : fetch (s.presentEvent w) = .event (decodeEvent w) := rfl

theorem exec_presentEvent (w : EventWord) (i : Instr) (s : State) :
    exec i (s.presentEvent w) = mapNext (State.presentEvent w) (exec i s) :=
  exec_mapPort (f := fun p => { p with rst := false, evValid := true, ev := w }) (fun _ => ⟨rfl, rfl⟩) i s

/-- A step that is presented a word runs the decoded event in the state as it was, then takes in the next inputs
(R35, R160). -/
theorem step_presentEvent {s : State} (hl : s.params.Legal) (w : EventWord) :
    step (s.presentEvent w) = mapNext State.advance (exec (decodeEvent w) s) := by
  rw [step, if_pos (show (s.presentEvent w).params.Legal from hl), fetch_presentEvent]
  simp only [exec_presentEvent, mapNext_mapNext]
  exact congrArg (mapNext · _) (funext (State.presentEvent_advance w))

theorem step_of_illegal {s : State} (h : ¬ s.params.Legal) : step s = .refused .illegalParameters := by
  rw [step, if_neg h]

/-- Settles O4: the format's bits decide the decoded event, and the decoded event decides the step. -/
theorem reservedBitsHaveNoEffect : Obligations.ReservedBitsHaveNoEffect := by
  intro w w' h
  have hdecode := decodeEvent_eq_of_agree_on_format h
  refine ⟨hdecode, fun s => ?_⟩
  by_cases hl : s.params.Legal
  · rw [step_presentEvent hl, step_presentEvent hl, hdecode]
  · rw [step_of_illegal (s := s.presentEvent w') hl, step_of_illegal (s := s.presentEvent w) hl]

end Sys2Proof.Machine
end

section
/-! The serialisation of a message, field by field (R79, R80). -/

namespace Sys2Proof.Machine

theorem serialise_of_id (id : Word) (len : Byte) (payload : List Byte) :
    serialise ⟨some id, len, payload⟩ =
      (tagId :: littleEndianBytes id) ++ [tagLen, len] ++ tagPayload :: payload := by
  simp [serialise, messageFields, encodeField]

theorem serialise_of_no_id (len : Byte) (payload : List Byte) :
    serialise ⟨none, len, payload⟩ = [tagLen, len] ++ tagPayload :: payload := by
  simp [serialise, messageFields, encodeField]

/-- The block's own message carries the level as its id exactly when it is not negative (R142). -/
theorem message_of_id {s : State} (h : 0 ≤ s.port.env.txnIdIn.toInt) :
    message s = ⟨some s.port.env.txnIdIn, BitVec.ofNat 8 s.cap, frameBytes s⟩ := by
  simp [message, messageId, idPresent, h]

theorem message_of_no_id {s : State} (h : ¬ 0 ≤ s.port.env.txnIdIn.toInt) :
    message s = ⟨none, BitVec.ofNat 8 s.cap, frameBytes s⟩ := by
  simp [message, messageId, idPresent, h]

/-- Settles O7: the layout is the concatenation of the fields, and the block's payload is its whole frame. -/
theorem serialisationLayout : Obligations.SerialisationLayout := by
  refine ⟨fun id len payload => ⟨serialise_of_id id len payload, serialise_of_no_id len payload⟩, fun s => ?_⟩
  split
  case isTrue h =>
    rw [message_of_id h, serialise_of_id]
    simp only [List.length_append, List.length_cons, List.length_nil, littleEndianBytes, frameBytes_length]
    omega
  case isFalse h =>
    rw [message_of_no_id h, serialise_of_no_id]
    simp only [List.length_append, List.length_cons, List.length_nil, frameBytes_length]
    omega

end Sys2Proof.Machine
end

section
/-! FIR5 is exact: what its sum is, the range it stays in, and that a legal ACC_W holds it (R104, R106, R108). -/

namespace Sys2Proof.Machine

/-- R104: the shift pattern 5, 2, 1, 2, 5 with its corrections, each shift a floor division. -/
theorem firSum_eq (s0 s1 s2 s3 s4 : Int) :
    firSum s0 s1 s2 s3 s4 = s0 / 32 + s1 / 4 - s1 / 32 + s2 / 2 + s3 / 4 - s3 / 32 + s4 / 32 := rfl

theorem sext16_range (v : Half) : -32768 ≤ sext16 v ∧ sext16 v ≤ 32767 := by
  have hlo := BitVec.le_toInt v
  have hhi := BitVec.toInt_lt (x := v)
  unfold sext16
  omega

/-- R106 (b): the range of a tap of weight 1/32. -/
theorem outerTap_range {s : Int} (h : -32768 ≤ s ∧ s ≤ 32767) : -1024 ≤ s / 32 ∧ s / 32 ≤ 1023 := by omega

/-- R106 (c): the range of a corrected tap. -/
theorem correctedTap_range {s : Int} (h : -32768 ≤ s ∧ s ≤ 32767) :
    -7168 ≤ s / 4 - s / 32 ∧ s / 4 - s / 32 ≤ 7168 := by omega

/-- R106 (b): the range of the middle tap. -/
theorem middleTap_range {s : Int} (h : -32768 ≤ s ∧ s ≤ 32767) : -16384 ≤ s / 2 ∧ s / 2 ≤ 16383 := by omega

/-- R108: the range of the sum is that of its five taps together. -/
theorem firSum_range (s0 s1 s2 s3 s4 : Half) :
    -32768 ≤ firSum (sext16 s0) (sext16 s1) (sext16 s2) (sext16 s3) (sext16 s4) ∧
      firSum (sext16 s0) (sext16 s1) (sext16 s2) (sext16 s3) (sext16 s4) ≤ 32765 := by
  have tap0 := outerTap_range (sext16_range s0)
  have tap1 := correctedTap_range (sext16_range s1)
  have tap2 := middleTap_range (sext16_range s2)
  have tap3 := correctedTap_range (sext16_range s3)
  have tap4 := outerTap_range (sext16_range s4)
  rw [firSum_eq]
  omega

/-- A register keeps every value that its width can hold. -/
theorem narrowSigned_of_fits {width : Nat} {v : Int} (hw : 0 < width)
    (hlo : -2 ^ (width - 1) ≤ v) (hhi : v < 2 ^ (width - 1)) : narrowSigned width v = v := by
  have hpow : (2 : Int) ^ width = 2 * 2 ^ (width - 1) := by rw [← pow_succ', Nat.sub_add_cancel hw]
  rw [narrowSigned]
  apply Int.bmod_eq_of_le_mul_two <;> push_cast <;> omega

/-- R108: a lane's sum fits every legal ACC_W, so the narrowing to it is exact. -/
theorem firLane_eq_firSum {accW : Nat} (hw : 17 ≤ accW) (lane : RawSample → Half) (w : Window) :
    firLane accW lane w =
      firSum (sext16 (lane w.s0)) (sext16 (lane w.s1)) (sext16 (lane w.s2)) (sext16 (lane w.s3))
        (sext16 (lane w.s4)) := by
  obtain ⟨hlo, hhi⟩ := firSum_range (lane w.s0) (lane w.s1) (lane w.s2) (lane w.s3) (lane w.s4)
  have hbound : (2 : Int) ^ 16 ≤ 2 ^ (accW - 1) := pow_le_pow_right₀ (by decide) (by omega)
  exact narrowSigned_of_fits (by omega) (by omega) (by omega)

/-- Settles O27: each lane is its exact sum (`firLane_eq_firSum`), written out by `firSum_eq`. -/
theorem firSumsItsTaps : Obligations.FirSumsItsTaps := by
  intro w accW hw
  simp only [fir5, firLane_eq_firSum hw, firSum_eq, sext16]

end Sys2Proof.Machine
end

section
/-! BATCH (R101): its decoding, its next state and its frame condition. -/

namespace Sys2Proof.Machine

theorem exec_batch (count : Word) (s : State) : exec (.batch count) s = .next (s.quiet.openBatch count) := rfl

/-- Opening a batch writes `rem` and `phase` alone. -/
theorem State.openBatch_keeps (count : Word) (s : State) :
    KeepsFrame s (s.openBatch count) ∧ KeepsTransaction s (s.openBatch count) ∧
      KeepsOutside s (s.openBatch count) := by
  simp [KeepsFrame, KeepsBytes, KeepsTransaction, KeepsOutside]

/-- Settles O18: opcode 1 is BATCH with its count, and BATCH clears the outputs and opens the batch. -/
theorem batchOpensBatch : Obligations.BatchOpensBatch := by
  refine ⟨fun w hop => decodeEvent_of_batch hop, fun count s => ⟨s.quiet.openBatch count, exec_batch count s, ?_⟩⟩
  obtain ⟨hframe, htransaction, houtside⟩ := State.openBatch_keeps count s.quiet
  exact ⟨State.openBatch_rem count s.quiet, State.openBatch_phase count s.quiet, State.openBatch_win count s.quiet,
    hframe, htransaction, houtside, State.openBatch_out count s.quiet⟩

end Sys2Proof.Machine
end

section
/-! QUANT case by case: the two saturated branches and the masked shift between them (R120). -/

namespace Sys2Proof.Machine

/-- The byte kept by `& 0xFF` is the value mod 256 (R10, R120). -/
theorem maskByte_toNat (v : Int) : ((maskByte v).toNat : Int) = v % 256 := by
  rw [maskByte, BitVec.toNat_ofInt]
  omega

theorem quant_of_above {shift : Nat} {v : Int} (h : 127 * 2 ^ shift < v) : quant shift v = BitVec.ofInt 8 127 :=
  if_pos h

/-- The bounds are in order: a value below the lower one is not above the upper one. -/
theorem quant_of_below {shift : Nat} {v : Int} (h : v < -128 * 2 ^ shift) : quant shift v = BitVec.ofInt 8 (-128) := by
  have hpow : (0 : Int) < 2 ^ shift := by positivity
  have hupper : ¬ v > shl 127 shift := by rw [shl]; omega
  rw [quant, if_neg hupper]
  exact if_pos h

theorem quant_of_within {shift : Nat} {v : Int} (hlo : -128 * 2 ^ shift ≤ v) (hhi : v ≤ 127 * 2 ^ shift) :
    quant shift v = maskByte (asr v shift) := by
  rw [quant, if_neg (show ¬ v > shl 127 shift from not_lt.mpr hhi)]
  exact if_neg (not_lt.mpr hlo)

/-- Settles O31: one clause for each branch of QUANT. -/
theorem quantRule : Obligations.QuantRule := by
  intro shift v
  refine ⟨fun habove => ?_, fun hbelow => ?_, fun hlo hhi => ?_⟩
  · rw [quant_of_above habove]; decide
  · rw [quant_of_below hbelow]; decide
  · rw [quant_of_within hlo hhi, maskByte_toNat, asr]

end Sys2Proof.Machine
end

section
/-! APPEND (R130, R131): the write moves nothing but bytes, and the cursor's part is decided by whether it reaches
CAP. -/

namespace Sys2Proof.Machine

/-- R8: the cursor's byte can hold every address of a legal frame, and CAP itself. -/
theorem State.cap_lt_of_legal {s : State} (hl : s.params.Legal) : s.cap < 2 ^ 8 := by
  obtain ⟨-, hrate, -, -⟩ := hl
  simp only [State.cap, Params.cap, numAxes]
  omega

/-- R130: the write changes the frame alone. -/
theorem storeTriplet_writes_frame_only {q : QuantizedSample} {s t : State} (h : storeTriplet q s = some t) :
    ∃ m, t = { s with frame := m } :=
  ⟨_, ((storeTriplet_eq_some_iff q s t).mp h).2⟩

/-- R131 writes the cursor, the counter and the outputs, and nothing else. -/
theorem advanceCursor_keeps (s : State) :
    KeepsBytes s (advanceCursor s) ∧ KeepsBatch s (advanceCursor s) ∧ KeepsTransaction s (advanceCursor s) ∧
      KeepsOutside s (advanceCursor s) := by
  simp [KeepsBytes, KeepsBatch, KeepsTransaction, KeepsOutside]

/-- R131, the branch `c = CAP`, with the counter's sum as a number. -/
theorem advanceCursor_full_values {s : State} (h : s.cursor.toNat + numAxes = s.cap) :
    (advanceCursor s).cursor = 0 ∧ (advanceCursor s).byteCount.toNat = (s.byteCount.toNat + s.cap) % 2 ^ 32 ∧
      (advanceCursor s).out.frameFull = true := by
  rw [advanceCursor_of_full h]
  exact ⟨rfl, by simp, rfl⟩

/-- R131, the other branch: below CAP the cursor's byte does not wrap. -/
theorem advanceCursor_not_full_values {s : State} (hl : s.params.Legal) (hc : s.cursor.toNat + numAxes ≤ s.cap)
    (h : s.cursor.toNat + numAxes ≠ s.cap) :
    (advanceCursor s).cursor.toNat = s.cursor.toNat + numAxes ∧ (advanceCursor s).byteCount = s.byteCount ∧
      (advanceCursor s).out = s.out := by
  have hcap := State.cap_lt_of_legal hl
  rw [advanceCursor_of_not_full h]
  exact ⟨by rw [BitVec.toNat_ofNat, Nat.mod_eq_of_lt (by omega)], rfl, rfl⟩

/-- Settles O25: the triplet's bytes are those of `storeTriplet_bytes`; the cursor's part sees the state before the
write, as the write changes the frame alone. -/
theorem appendRule : Obligations.AppendRule := by
  intro q s hl hwf hc hout
  obtain ⟨u, hu⟩ : ∃ u, storeTriplet q s = some u := ⟨_, (storeTriplet_eq_some_iff q s _).mpr ⟨hc, rfl⟩⟩
  obtain ⟨-, hholds, hother⟩ := storeTriplet_bytes hwf hu
  obtain ⟨hbytes, hbatch, htransaction, houtside⟩ := advanceCursor_keeps u
  have happend : append q s = some (advanceCursor u) := (append_eq_some_iff q s _).mpr ⟨u, hu, rfl⟩
  have htriplet : HoldsTriplet q s (advanceCursor u) := by simpa only [HoldsTriplet, hbytes _] using hholds
  have hrest : KeepsOtherBytes s (advanceCursor u) := fun a ha => (hbytes a).trans (hother a ha)
  obtain ⟨m, rfl⟩ := storeTriplet_writes_frame_only hu
  refine ⟨_, happend, htriplet, hrest, fun hfull => ?_, fun hnot => ?_, hbatch, htransaction, houtside⟩
  · exact advanceCursor_full_values (s := { s with frame := m }) hfull
  · obtain ⟨hcursor, hcount, hkept⟩ := advanceCursor_not_full_values (s := { s with frame := m }) hl hc hnot
    exact ⟨hcursor, hcount, (congrArg Outputs.frameFull hkept).trans hout⟩

end Sys2Proof.Machine
end

section
/-! TXOK and TXFAIL (R144, R145, R147): one ending for both, which writes the transaction alone. -/

namespace Sys2Proof.Machine

theorem exec_txok (s : State) : exec .txok s = .next (endTransaction s.quiet) := rfl

/-- R145: the reason is decoded and unused. -/
theorem exec_txfail (reason : Byte) (s : State) : exec (.txfail reason) s = exec .txok s := rfl

/-- Ending a transaction writes `pending` and `cur_id` alone. -/
theorem endTransaction_keeps (s : State) :
    KeepsBatch s (endTransaction s) ∧ KeepsFrame s (endTransaction s) ∧ KeepsOutside s (endTransaction s) := by
  simp [KeepsBatch, KeepsFrame, KeepsBytes, KeepsOutside]

/-- R147: with nothing pending the two fields already hold what the ending writes. -/
theorem endTransaction_keepsTransaction_of_idle {s : State} (hp : s.pending = false) (hid : s.curId = absentId) :
    KeepsTransaction s (endTransaction s) :=
  ⟨hp.symm, hid.symm⟩

/-- What TXOK does, in every state. -/
theorem exec_txok_ends (s : State) :
    ∃ t, exec .txok s = .next t ∧ t.pending = false ∧ t.curId.toInt = -1 ∧
      KeepsBatch s t ∧ KeepsFrame s t ∧ KeepsOutside s t ∧ t.out = .zero := by
  obtain ⟨hbatch, hframe, houtside⟩ := endTransaction_keeps s.quiet
  exact ⟨_, exec_txok s, endTransaction_pending s.quiet, absentId_toInt, hbatch, hframe, houtside, s.quiet_out⟩

/-- Settles O34: opcode 3 with status 0 is TXOK, and TXOK is the ending of `exec_txok_ends`. -/
theorem txokEndsTransaction : Obligations.TxokEndsTransaction :=
  ⟨fun _ hop hst => decodeEvent_of_txok hop hst, exec_txok_ends⟩

/-- Settles O35: opcode 3 with status 1 is TXFAIL with its reason, and TXFAIL is TXOK. -/
theorem txfailEndsTransaction : Obligations.TxfailEndsTransaction := by
  refine ⟨fun _ hop hst => decodeEvent_of_txfail hop hst, fun reason s => ⟨exec_txfail reason s, ?_⟩⟩
  rw [exec_txfail]
  exact exec_txok_ends s

/-- Settles O36: both completions run the same ending, which writes nothing new in an idle block. -/
theorem completionWhileIdleIsNoOp : Obligations.CompletionWhileIdleIsNoOp := by
  intro s hp hid i hi
  have hexec : exec i s = .next (endTransaction s.quiet) := by
    obtain rfl | ⟨reason, rfl⟩ := hi
    · exact exec_txok s
    · exact (exec_txfail reason s).trans (exec_txok s)
  obtain ⟨hbatch, hframe, houtside⟩ := endTransaction_keeps s.quiet
  have htransaction := endTransaction_keepsTransaction_of_idle (s := s.quiet) hp hid
  exact ⟨_, hexec, ⟨hbatch, hframe, htransaction⟩, houtside, s.quiet_out⟩

end Sys2Proof.Machine
end

section
/-! SEND (R141, R142): what a begin writes, and that an instruction which does not reach SEND reads nothing of the
input ports. -/

namespace Sys2Proof.Machine

/-! ### The begin -/

theorem latchedId_of_id {id : Word} (h : 0 ≤ id.toInt) : latchedId id = id := by
  simp [latchedId, idPresent, h]

theorem latchedId_of_no_id {id : Word} (h : ¬ 0 ≤ id.toInt) : latchedId id = absentId := by
  simp [latchedId, idPresent, h]

/-- R142: the length is CAP wherever a byte can hold it, and the payload is the whole frame. -/
theorem message_len_payload {s : State} (hcap : s.cap < 2 ^ 8) :
    (message s).len.toNat = s.cap ∧ (message s).payload = (List.range s.cap).map s.frame.read := by
  refine ⟨?_, rfl⟩
  rw [message, BitVec.toNat_ofNat, Nat.mod_eq_of_lt hcap]

/-- A begin writes the outputs, `pending` and `cur_id` alone. -/
theorem beginTransaction_keeps (s : State) :
    KeepsBatch s (beginTransaction s) ∧ KeepsFrame s (beginTransaction s) ∧ KeepsOutside s (beginTransaction s) := by
  simp [KeepsBatch, KeepsFrame, KeepsBytes, KeepsOutside]

/-- A level that is not negative is latched and sent. -/
theorem beginTransaction_id_of_id {s : State} (h : 0 ≤ s.port.env.txnIdIn.toInt) :
    (beginTransaction s).curId = s.port.env.txnIdIn ∧
      (beginTransaction s).out.txMsg.id = some s.port.env.txnIdIn := by
  rw [beginTransaction_curId, beginTransaction_out, latchedId_of_id h, message_of_id h]
  exact ⟨rfl, rfl⟩

/-- A negative level is no id: -1 is latched and the message carries none. -/
theorem beginTransaction_id_of_no_id {s : State} (h : s.port.env.txnIdIn.toInt < 0) :
    (beginTransaction s).curId.toInt = -1 ∧ (beginTransaction s).out.txMsg.id = none := by
  rw [beginTransaction_curId, beginTransaction_out, latchedId_of_no_id (not_le.mpr h), message_of_no_id (not_le.mpr h)]
  exact ⟨absentId_toInt, rfl⟩

/-! ### Instructions that do not reach SEND -/

/-- The SAMPLE that fills the frame: the fifth of a block in an open batch, whose triplet ends at CAP (R102, R131). -/
def FillsFrame (i : Instr) (s : State) : Prop :=
  (∃ x y z, i = .sample x y z) ∧ s.rem ≠ 0 ∧ s.phase = 4 ∧ s.cursor.toNat + numAxes = s.cap

/-- Setting the levels is a change of the ports. -/
theorem State.withEnv_eq_mapPort (env : Env) : State.withEnv env = State.mapPort fun p => { p with env := env } := rfl

theorem sendIfFull_of_not_full {s : State} (h : s.out.frameFull = false) : sendIfFull s = s := by
  simp [sendIfFull, h]

/-- Away from CAP, APPEND leaves the outputs as they were. -/
theorem append_out_of_not_full {q : QuantizedSample} {s t : State} (hc : s.cursor.toNat + numAxes ≠ s.cap)
    (h : append q s = some t) : t.out = s.out := by
  obtain ⟨u, hu, rfl⟩ := (append_eq_some_iff q s t).mp h
  obtain ⟨m, rfl⟩ := storeTriplet_writes_frame_only hu
  rw [advanceCursor_of_not_full (s := { s with frame := m }) hc]

/-- A block that does not fill the frame is completed alike under all ports, be it stored or out of the frame. -/
theorem completeBlock_mapPort_of_not_full (f : Port → Port) {s : State} (hc : s.cursor.toNat + numAxes ≠ s.cap)
    (hout : s.out.frameFull = false) :
    completeBlock (s.mapPort f) = mapNext (State.mapPort f) (completeBlock s) := by
  have hblock : blockOutput (s.mapPort f) = blockOutput s := rfl
  unfold completeBlock
  rw [hblock, append_mapPort]
  cases happend : append (blockOutput s) s with
  | none => rfl
  | some t =>
    have ht : t.out.frameFull = false := by rw [append_out_of_not_full hc happend, hout]
    simp only [Option.map_some, mapNext_next, sendIfFull_of_not_full ht]
    rw [sendIfFull_of_not_full (s := t.mapPort f) ht]

theorem execSample_mapPort_of_not_fills (f : Port → Port) {x y z : Half} {s : State}
    (h : ¬ FillsFrame (.sample x y z) s) :
    execSample x y z (s.mapPort f) = mapNext (State.mapPort f) (execSample x y z s) := by
  by_cases hr : s.rem = 0
  · rw [execSample_of_closed hr, execSample_of_closed (s := s.mapPort f) hr]; rfl
  · by_cases hp : s.phase < 4
    · rw [execSample_of_collecting hr hp, execSample_of_collecting (s := s.mapPort f) hr hp]; rfl
    · have hp4 : s.phase = 4 := by omega
      have hc : s.cursor.toNat + numAxes ≠ s.cap := fun hfull => h ⟨⟨x, y, z, rfl⟩, hr, hp4, hfull⟩
      rw [execSample_of_last hr hp4, execSample_of_last (s := s.mapPort f) hr hp4]
      exact completeBlock_mapPort_of_not_full f (s := s.quiet.takeSample ⟨x, y, z⟩) hc rfl

/-- R141: outside a step that fills the frame, an instruction reads nothing of the ports. -/
theorem exec_mapPort_of_not_fills (f : Port → Port) {i : Instr} {s : State} (h : ¬ FillsFrame i s) :
    exec i (s.mapPort f) = mapNext (State.mapPort f) (exec i s) := by
  cases i with
  | sample x y z => exact execSample_mapPort_of_not_fills f h
  | _ => rfl

/-- Settles O26: the two drops and the begin by the branches of SEND, and the levels by `exec_mapPort_of_not_fills`. -/
theorem sendRule : Obligations.SendRule := by
  refine ⟨fun s hcap hout => ⟨fun hp => ?pending, fun _ hr => ?busy, fun hp hr => ?ready⟩, fun i s env h => ?levels⟩
  case pending =>
    rw [send_of_pending hp]
    exact ⟨rfl, hout⟩
  case busy =>
    rw [send_of_busy hr]
    exact ⟨rfl, hout⟩
  case ready =>
    rw [send_of_ready hp hr]
    obtain ⟨hlen, hpayload⟩ := message_len_payload hcap
    exact ⟨rfl, beginTransaction_pending s, hlen, hpayload, beginTransaction_id_of_id, beginTransaction_id_of_no_id,
      beginTransaction_out s, beginTransaction_keeps s⟩
  case levels =>
    rw [State.withEnv_eq_mapPort]
    exact exec_mapPort_of_not_fills _ h

end Sys2Proof.Machine
end

section
/-! Words that decode to an event which does nothing: NOP and the reserved opcodes (R72, R78). -/

namespace Sys2Proof

theorem decodeEvent_of_nop {w : EventWord} (h : opcodeOf w = 0) : decodeEvent w = .nop := by
  unfold decodeEvent; rw [h]; rfl

/-- The eight operations of R167. -/
def reservedEvents : List Instr := [.rsvd8, .rsvd9, .rsvdA, .rsvdB, .rsvdC, .rsvdD, .rsvdE, .rsvdF]

/-- The opcode's highest bit is the word's. -/
theorem getLsbD_opcodeOf_three (w : EventWord) : (opcodeOf w).getLsbD 3 = w.getLsbD 63 := by
  rw [opcodeOf, getLsbD_bitField]; rfl

/-- No opcode with its highest bit set has an operand, so the word's opcode alone decides the event. -/
theorem decodeEvent_opcodeWord_of_reserved {w : EventWord} (h : (opcodeOf w).getLsbD 3 = true) :
    decodeEvent (opcodeWord (opcodeOf w)) = decodeEvent w := by
  have hne {op : BitVec 4} (hop : opcodeOf w = op) (hbit : op.getLsbD 3 = false) : False := by
    rw [hop, hbit] at h
    cases h
  apply decodeEvent_congr
  case hop => exact opcodeOf_opcodeWord _
  case hreason => exact fun hop _ => (hne hop (by decide)).elim
  all_goals exact fun hop => (hne hop (by decide)).elim

theorem decodeEvent_opcodeWord_mem_reservedEvents :
    ∀ op : BitVec 4, op.getLsbD 3 = true → decodeEvent (opcodeWord op) ∈ reservedEvents := by decide

theorem decodeEvent_mem_reservedEvents {w : EventWord} (h : w.getLsbD 63 = true) :
    decodeEvent w ∈ reservedEvents := by
  rw [← getLsbD_opcodeOf_three] at h
  rw [← decodeEvent_opcodeWord_of_reserved h]
  exact decodeEvent_opcodeWord_mem_reservedEvents _ h

end Sys2Proof
end

section
/-! NOP and the reserved opcodes (R161, R167): all that they do is to clear the outputs. -/

namespace Sys2Proof.Machine

/-- Clearing the outputs touches neither the block nor what is outside it. -/
theorem State.quiet_keeps (s : State) : KeepsBlock s s.quiet ∧ KeepsOutside s s.quiet := by
  simp [KeepsBlock, KeepsBatch, KeepsFrame, KeepsBytes, KeepsTransaction, KeepsOutside]

theorem exec_nop (s : State) : exec .nop s = .next s.quiet := rfl

theorem exec_reserved {i : Instr} (hi : i ∈ reservedEvents) (s : State) : exec i s = .next s.quiet := by
  fin_cases hi <;> rfl

/-- An instruction that only clears the outputs does nothing. -/
theorem doesNothing_of_exec_eq_quiet {i : Instr} {s : State} (h : exec i s = .next s.quiet) :
    ∃ t, exec i s = .next t ∧ KeepsBlock s t ∧ KeepsOutside s t ∧ t.out = .zero := by
  obtain ⟨hblock, houtside⟩ := State.quiet_keeps s
  exact ⟨s.quiet, h, hblock, houtside, s.quiet_out⟩

/-- Settles O16: opcode 0 is NOP, and NOP only clears the outputs. -/
theorem nopDoesNothing : Obligations.NopDoesNothing :=
  ⟨fun _ hop => decodeEvent_of_nop hop, fun s => doesNothing_of_exec_eq_quiet (exec_nop s)⟩

/-- Settles O17: bit 63 puts the opcode among the reserved ones, and each of them only clears the outputs. -/
theorem reservedOpcodesDoNothing : Obligations.ReservedOpcodesDoNothing :=
  ⟨fun _ hbit => decodeEvent_mem_reservedEvents hbit,
    fun _ hi s => doesNothing_of_exec_eq_quiet (exec_reserved hi s)⟩

end Sys2Proof.Machine
end

section
/-! The diagnostic reads (R162 to R166): what each of the four views is as a number, and that a read is the answer of
its view and nothing else. -/

namespace Sys2Proof.Machine

/-! ### The answer -/

theorem State.answer_rdata (data : Word) (s : State) : (s.answer data).out.rdata = data := rfl

/-- A later answer replaces an earlier one. -/
@[simp] theorem State.answer_answer (data data' : Word) (s : State) :
    (s.answer data).answer data' = s.answer data' := rfl

/-- R162: an answer touches neither the block nor what is outside it. -/
theorem State.answer_keeps (data : Word) (s : State) :
    KeepsBlock s (s.answer data) ∧ KeepsOutside s (s.answer data) := by
  simp [KeepsBlock, KeepsBatch, KeepsFrame, KeepsBytes, KeepsTransaction, KeepsOutside]

theorem exec_rdcnt (s : State) : exec .rdcnt s = .next (s.answer s.byteCount) := rfl

theorem exec_rdfrm (idx : Byte) (s : State) : exec (.rdfrm idx) s = .next (s.answer (frameView idx s)) := rfl

theorem exec_rdstat (s : State) : exec .rdstat s = .next (s.answer (statusWord s)) := rfl

theorem exec_rdtxid (s : State) : exec .rdtxid s = .next (s.answer s.curId) := rfl

/-! ### FRAME[idx] (R30, R164) -/

/-- Inside the frame the view is the byte, zero-extended. -/
theorem frameView_toNat_of_lt {idx : Byte} {s : State} (h : idx.toNat < s.cap) :
    (frameView idx s).toNat = (s.frame.read idx.toNat).toNat := by
  rw [frameView, memRead_of_lt h]
  exact BitVec.toNat_setWidth_of_le (by decide)

theorem frameView_of_ge {idx : Byte} {s : State} (h : s.cap ≤ idx.toNat) : frameView idx s = 0 := by
  rw [frameView, memRead_of_ge h]

/-! ### STATUS (R30, R165) -/

/-- A field above the bits that `low` uses is added to it: the two share no bit. -/
theorem place_or_toNat {width n lo : Nat} (v : BitVec n) {low : BitVec width} (hlow : low.toNat < 2 ^ lo)
    (hfit : n + lo ≤ width) : (place width v lo ||| low).toNat = 2 ^ lo * v.toNat + low.toNat := by
  have hplace : (place width v lo).toNat = v.toNat <<< lo := by
    have hlt : v.toNat <<< lo < 2 ^ width := by
      calc v.toNat <<< lo = v.toNat * 2 ^ lo := Nat.shiftLeft_eq _ _
        _ < 2 ^ n * 2 ^ lo := Nat.mul_lt_mul_of_pos_right v.isLt (Nat.two_pow_pos lo)
        _ = 2 ^ (n + lo) := (pow_add 2 n lo).symm
        _ ≤ 2 ^ width := Nat.pow_le_pow_right (by decide) hfit
    rw [place, BitVec.toNat_shiftLeft, BitVec.toNat_setWidth_of_le (by omega), Nat.mod_eq_of_lt hlt]
  rw [BitVec.toNat_or, hplace, ← Nat.shiftLeft_add_eq_or_of_lt hlow, Nat.shiftLeft_eq, Nat.mul_comm]

/-- STATUS as the sum of its four fields, each at its weight. -/
theorem statusWord_toNat (s : State) :
    (statusWord s).toNat =
      s.pending.toNat + 2 * (idPresent s.curId).toNat + 2 ^ 8 * s.cursor.toNat + 2 ^ 16 * s.phase.val := by
  have hpending := s.pending.toNat_lt
  have hid := (idPresent s.curId).toNat_lt
  have hcursor := s.cursor.isLt
  have hphase := s.phase.isLt
  have hbit0 : (place 32 (BitVec.ofBool s.pending) 0).toNat = s.pending.toNat := by
    cases s.pending <;> rfl
  have hbits1 : (place 32 (BitVec.ofBool (idPresent s.curId)) 1 ||| place 32 (BitVec.ofBool s.pending) 0).toNat =
      2 * (idPresent s.curId).toNat + s.pending.toNat := by
    rw [place_or_toNat _ (by omega) (by decide), BitVec.toNat_ofBool, hbit0, pow_one]
  have hbits15 : (place 32 s.cursor 8 ||| (place 32 (BitVec.ofBool (idPresent s.curId)) 1 |||
      place 32 (BitVec.ofBool s.pending) 0)).toNat =
      2 ^ 8 * s.cursor.toNat + (2 * (idPresent s.curId).toNat + s.pending.toNat) := by
    rw [place_or_toNat _ (by omega) (by decide), hbits1]
  rw [statusWord, BitVec.or_assoc, BitVec.or_assoc, place_or_toNat _ (by omega) (by decide), hbits15,
    BitVec.toNat_ofNat]
  omega

/-! ### TXID (R29, R30, R166) -/

theorem idPresent_eq_true_iff (id : Word) : idPresent id = true ↔ 0 ≤ id.toInt := decide_eq_true_iff

theorem idPresent_eq_false_iff (id : Word) : idPresent id = false ↔ id.toInt < 0 := by
  rw [idPresent, decide_eq_false_iff_not, not_le]

/-- A present id reads as itself, below the sign bit. -/
theorem toNat_of_idPresent {id : Word} (h : idPresent id = true) :
    (id.toNat : Int) = id.toInt ∧ id.toNat < 2 ^ 31 := by
  rw [idPresent_eq_true_iff] at h
  have hcond := BitVec.toInt_eq_toNat_cond id
  have := id.isLt
  split at hcond <;> omega

/-- R31 (d), (e): with no id held, `cur_id` has the one pattern of an absent id. -/
theorem State.Inv.curId_eq_absentId {s : State} (hinv : s.Inv)
    (h : s.pending = false ∨ idPresent s.curId = false) : s.curId = absentId := by
  rcases h with hidle | habsent
  · exact hinv.idle_id hidle
  · have hneg := (idPresent_eq_false_iff s.curId).mp habsent
    have hrange := hinv.id_range
    exact BitVec.eq_of_toInt_eq (by rw [absentId_toInt]; omega)

/-! ### The statements -/

/-- Settles O37: opcode 4 is RDCNT, and RDCNT is the answer of `byte_count`. -/
theorem rdcntAnswersByteCount : Obligations.RdcntAnswersByteCount :=
  ⟨fun _ hop => decodeEvent_of_rdcnt hop,
    fun s => ⟨_, exec_rdcnt s, State.answer_out s.byteCount s, State.answer_keeps s.byteCount s⟩⟩

/-- Settles O38: opcode 5 is RDFRM with its index, and the two cases are those of the view. -/
theorem rdfrmAnswersFrameByte : Obligations.RdfrmAnswersFrameByte :=
  ⟨fun _ hop => decodeEvent_of_rdfrm hop,
    fun idx s => ⟨_, exec_rdfrm idx s, frameView_toNat_of_lt, frameView_of_ge, State.answer_out _ s,
      State.answer_keeps _ s⟩⟩

/-- Settles O39: opcode 6 is RDSTAT, and RDSTAT is the answer of STATUS, the sum of `statusWord_toNat`. -/
theorem rdstatAnswersStatus : Obligations.RdstatAnswersStatus := by
  refine ⟨fun _ hop => decodeEvent_of_rdstat hop,
    fun s => ⟨_, exec_rdstat s, ?_, State.answer_out _ s, State.answer_keeps _ s⟩⟩
  rw [State.answer_rdata, statusWord_toNat]
  simp only [Bool.toNat, Bool.cond_eq_ite, idPresent_eq_true_iff]

/-- Settles O40: opcode 7 is RDTXID, and RDTXID is the answer of `cur_id`, which the invariant fixes where no id is
held. -/
theorem rdtxidAnswersCurrentId : Obligations.RdtxidAnswersCurrentId := by
  refine ⟨fun _ hop => decodeEvent_of_rdtxid hop, fun s => ?_⟩
  obtain ⟨hblock, houtside⟩ := State.answer_keeps s.curId s
  exact ⟨_, exec_rdtxid s, State.answer_out s.curId s, hblock, houtside,
    fun hinv => ⟨hinv.curId_eq_absentId, toNat_of_idPresent⟩⟩

/-- A diagnostic read answers a view of the state that does not see the answer of an earlier step. -/
theorem exec_read_eq_answer {i : Instr} (hi : i = .rdcnt ∨ (∃ idx, i = .rdfrm idx) ∨ i = .rdstat ∨ i = .rdtxid) :
    ∃ view : State → Word, (∀ s, exec i s = .next (s.answer (view s))) ∧
      ∀ data s, view (s.answer data) = view s := by
  rcases hi with rfl | ⟨idx, rfl⟩ | rfl | rfl
  · exact ⟨State.byteCount, exec_rdcnt, State.answer_byteCount⟩
  · exact ⟨frameView idx, exec_rdfrm idx, fun _ _ => rfl⟩
  · exact ⟨statusWord, exec_rdstat, fun _ _ => rfl⟩
  · exact ⟨State.curId, exec_rdtxid, State.answer_curId⟩

/-- Settles O41: a read writes its answer alone, so the same read sees the same view and writes it again. -/
theorem readsAreIdempotent : Obligations.ReadsAreIdempotent := by
  intro i s hi
  obtain ⟨view, hexec, hview⟩ := exec_read_eq_answer hi
  obtain ⟨hblock, houtside⟩ := State.answer_keeps (view s) s
  have hagain : exec i (s.answer (view s)) = .next (s.answer (view s)) := by
    rw [hexec, hview, State.answer_answer]
  exact ⟨_, hexec s, hblock, houtside, State.answer_out (view s) s, hagain⟩

end Sys2Proof.Machine
end

section
/-! Encoding and decoding are inverse (R70 to R76, R80, R82): an operand is read back from the place it was put at, and
a field's bytes are read back whole. -/

namespace Sys2Proof

/-! ### A place and the fields of the word around it -/

theorem bitField_or (v w : EventWord) (lo width : Nat) :
    bitField (v ||| w) lo width = bitField v lo width ||| bitField w lo width := by
  rw [bitField, BitVec.extractLsb'_or]; rfl

/-- The field at a place is the value put there. -/
theorem bitField_place {n lo : Nat} (v : BitVec n) (h : lo + n ≤ 64) : bitField (place 64 v lo) lo n = v := by
  apply BitVec.eq_of_getLsbD_eq
  intro k hk
  have hbit : lo + k < 64 := by omega
  rw [getLsbD_bitField, getLsbD_place]
  simp [hk, hbit]

/-- A field that ends below a place sees nothing of the value there. -/
theorem bitField_place_of_le_lo {n lo lo' width : Nat} (v : BitVec n) (h : lo' + width ≤ lo) :
    bitField (place 64 v lo) lo' width = 0 := by
  apply BitVec.eq_of_getLsbD_eq
  intro k hk
  have hbelow : lo' + k < lo := by omega
  simp [hbelow]

/-- A field that begins above a place sees nothing of the value there. -/
theorem bitField_place_of_ge {n lo lo' width : Nat} (v : BitVec n) (h : lo + n ≤ lo') :
    bitField (place 64 v lo) lo' width = 0 := by
  apply BitVec.eq_of_getLsbD_eq
  intro k hk
  have hbeyond : v.getLsbD (lo' + k - lo) = false := BitVec.getLsbD_of_ge _ _ (by omega)
  simp [hbeyond]

/-- An operand's field sees nothing of the opcode. -/
theorem bitField_opcodeWord (op : BitVec 4) {lo width : Nat} (h : lo + width ≤ 60) :
    bitField (opcodeWord op) lo width = 0 :=
  bitField_place_of_le_lo op h

/-! ### The words of the four events with operands (R73 to R76) -/

def batchWord (count : Word) : EventWord := opcodeWord 0x1 ||| place 64 count 0

def sampleWord (x y z : Half) : EventWord := opcodeWord 0x2 ||| place 64 z 32 ||| place 64 y 16 ||| place 64 x 0

def txfailWord (reason : Byte) : EventWord := opcodeWord 0x3 ||| place 64 reason 8 ||| place 64 1#1 0

def rdfrmWord (idx : Byte) : EventWord := opcodeWord 0x5 ||| place 64 idx 0

theorem encodeEvent_batch (count : Word) : encodeEvent (.batch count) = some (batchWord count) := rfl

theorem encodeEvent_sample (x y z : Half) : encodeEvent (.sample x y z) = some (sampleWord x y z) := rfl

theorem encodeEvent_txfail (reason : Byte) : encodeEvent (.txfail reason) = some (txfailWord reason) := rfl

theorem encodeEvent_rdfrm (idx : Byte) : encodeEvent (.rdfrm idx) = some (rdfrmWord idx) := rfl

theorem decodeEvent_batchWord (count : Word) : decodeEvent (batchWord count) = .batch count := by
  have hop : opcodeOf (batchWord count) = 1 := by
    rw [batchWord, opcodeOf_or_place _ _ _ (by decide), opcodeOf_opcodeWord]
  have hcount : countOf (batchWord count) = count := by
    rw [countOf, batchWord, bitField_or, bitField_opcodeWord _ (by decide), bitField_place _ (by decide)]
    exact BitVec.zero_or
  rw [decodeEvent_of_batch hop, hcount]

theorem decodeEvent_sampleWord (x y z : Half) : decodeEvent (sampleWord x y z) = .sample x y z := by
  have hop : opcodeOf (sampleWord x y z) = 2 := by
    rw [sampleWord, opcodeOf_or_place _ _ _ (by decide), opcodeOf_or_place _ _ _ (by decide),
      opcodeOf_or_place _ _ _ (by decide), opcodeOf_opcodeWord]
  have hx : xOf (sampleWord x y z) = x := by
    simp only [xOf, sampleWord, bitField_or]
    rw [bitField_opcodeWord _ (by decide), bitField_place_of_le_lo z (by decide),
      bitField_place_of_le_lo y (by decide), bitField_place x (by decide)]
    simp
  have hy : yOf (sampleWord x y z) = y := by
    simp only [yOf, sampleWord, bitField_or]
    rw [bitField_opcodeWord _ (by decide), bitField_place_of_le_lo z (by decide), bitField_place y (by decide),
      bitField_place_of_ge x (by decide)]
    simp
  have hz : zOf (sampleWord x y z) = z := by
    simp only [zOf, sampleWord, bitField_or]
    rw [bitField_opcodeWord _ (by decide), bitField_place z (by decide), bitField_place_of_ge y (by decide),
      bitField_place_of_ge x (by decide)]
    simp
  rw [decodeEvent_of_sample hop, hx, hy, hz]

theorem decodeEvent_txfailWord (reason : Byte) : decodeEvent (txfailWord reason) = .txfail reason := by
  have hop : opcodeOf (txfailWord reason) = 3 := by
    rw [txfailWord, opcodeOf_or_place _ _ _ (by decide), opcodeOf_or_place _ _ _ (by decide), opcodeOf_opcodeWord]
  have hst : statusOf (txfailWord reason) = 1 := by
    simp only [statusOf, txfailWord, bitField_or]
    rw [bitField_opcodeWord _ (by decide), bitField_place_of_le_lo reason (by decide), bitField_place _ (by decide)]
    rfl
  have hreason : reasonOf (txfailWord reason) = reason := by
    simp only [reasonOf, txfailWord, bitField_or]
    rw [bitField_opcodeWord _ (by decide), bitField_place reason (by decide), bitField_place_of_ge _ (by decide)]
    simp
  rw [decodeEvent_of_txfail hop hst, hreason]

theorem decodeEvent_rdfrmWord (idx : Byte) : decodeEvent (rdfrmWord idx) = .rdfrm idx := by
  have hop : opcodeOf (rdfrmWord idx) = 5 := by
    rw [rdfrmWord, opcodeOf_or_place _ _ _ (by decide), opcodeOf_opcodeWord]
  have hidx : idxOf (rdfrmWord idx) = idx := by
    rw [idxOf, rdfrmWord, bitField_or, bitField_opcodeWord _ (by decide), bitField_place _ (by decide)]
    exact BitVec.zero_or
  rw [decodeEvent_of_rdfrm hop, hidx]

/-! ### Events -/

/-- The event word of an instruction decodes to it. The words without an operand are thirteen constants. -/
theorem decodeEvent_encodeEvent {i : Instr} {w : EventWord} (h : encodeEvent i = some w) : decodeEvent w = i := by
  cases i with
  | batch count =>
    obtain rfl := Option.some.inj ((encodeEvent_batch count).symm.trans h)
    exact decodeEvent_batchWord count
  | sample x y z =>
    obtain rfl := Option.some.inj ((encodeEvent_sample x y z).symm.trans h)
    exact decodeEvent_sampleWord x y z
  | txfail reason =>
    obtain rfl := Option.some.inj ((encodeEvent_txfail reason).symm.trans h)
    exact decodeEvent_txfailWord reason
  | rdfrm idx =>
    obtain rfl := Option.some.inj ((encodeEvent_rdfrm idx).symm.trans h)
    exact decodeEvent_rdfrmWord idx
  | fTxnid id => cases h
  | fLen len => cases h
  | fPayload bytes => cases h
  | _ => cases h; decide

theorem encodeEvent_isSome {i : Instr} (h : i.isEvent = true) : ∃ w, encodeEvent i = some w := by
  cases i with
  | fTxnid id => cases h
  | fLen len => cases h
  | fPayload bytes => cases h
  | _ => exact ⟨_, rfl⟩

theorem encode_of_event {i : Instr} {w : EventWord} (h : encodeEvent i = some w) : encode i = .event w := by
  rw [encode, h]

/-! ### Fields -/

theorem encode_of_field {i : Instr} (h : i.isEvent = false) : encode i = .wire (encodeField i) := by
  cases i with
  | fTxnid id => rfl
  | fLen len => rfl
  | fPayload bytes => rfl
  | _ => cases h

/-- A length that the receiver may hold when it meets the field `i`: a payload's own, and any before another field. -/
def FitsLength (len : Nat) (i : Instr) : Prop := ∀ bytes, i = .fPayload bytes → len = bytes.length

theorem fitsLength_lengthBefore (i : Instr) : FitsLength (lengthBefore i) i := by
  rintro bytes rfl
  rfl

/-- R80 against R82: a field's bytes are read back as that field, and what follows them is left. -/
theorem decodeField_encodeField {i : Instr} (hi : i.isEvent = false) {len : Nat} (hlen : FitsLength len i)
    (rest : List Byte) : decodeField len (encodeField i ++ rest) = .instr i rest := by
  cases i with
  | fTxnid id =>
    rw [encodeField, littleEndianBytes]
    exact (decodeField_tagId len _ _ _ _ rest).trans (by rw [littleEndianWord_bytes])
  | fLen n => exact decodeField_tagLen len n rest
  | fPayload bytes =>
    obtain rfl := hlen bytes rfl
    rw [encodeField, List.cons_append, decodeField_tagPayload _ _ (by simp), List.take_left, List.drop_left]
  | _ => cases hi

/-- Settles O2: an event through its word (`decodeEvent_encodeEvent`), a field through its bytes
(`decodeField_encodeField`). -/
theorem decodeInvertsEncode : Obligations.DecodeInvertsEncode := by
  refine fun i _ => ⟨fun hi len => ?event, fun hi => ⟨encode_of_field hi, fun rest => ?field⟩⟩
  case event =>
    obtain ⟨w, hw⟩ := encodeEvent_isSome hi
    rw [encode_of_event hw, decode, decodeEvent_encodeEvent hw]
  case field => exact decodeField_encodeField hi (fitsLength_lengthBefore i) rest

/-! ### The words of the script lines as sums (R84) -/

theorem place_zero_toNat {width n : Nat} (v : BitVec n) (h : n ≤ width) : (place width v 0).toNat = v.toNat := by
  rw [place, BitVec.shiftLeft_zero, BitVec.toNat_setWidth_of_le h]

/-- The opcode is added to an event word's other bits. -/
theorem opcodeWord_or_toNat (op : BitVec 4) {low : EventWord} (h : low.toNat < 2 ^ 60) :
    (opcodeWord op ||| low).toNat = 2 ^ 60 * op.toNat + low.toNat :=
  Machine.place_or_toNat op h (by decide)

theorem batchWord_toNat (n : Word) : (batchWord n).toNat = 0x1000000000000000 + n.toNat := by
  have hn := place_zero_toNat (width := 64) n (by decide)
  rw [batchWord, opcodeWord_or_toNat _ (by omega), hn]
  rfl

theorem sampleWord_toNat (x y z : Half) :
    (sampleWord x y z).toNat = 0x2000000000000000 + z.toNat * 2 ^ 32 + y.toNat * 2 ^ 16 + x.toNat := by
  have hx : (place 64 x 0).toNat = x.toNat := place_zero_toNat x (by decide)
  have hy : (place 64 y 16 ||| place 64 x 0).toNat = 2 ^ 16 * y.toNat + x.toNat := by
    rw [Machine.place_or_toNat y (by omega) (by decide), hx]
  have hz : (place 64 z 32 ||| (place 64 y 16 ||| place 64 x 0)).toNat =
      2 ^ 32 * z.toNat + (2 ^ 16 * y.toNat + x.toNat) := by
    rw [Machine.place_or_toNat z (by omega) (by decide), hy]
  rw [sampleWord, BitVec.or_assoc, BitVec.or_assoc, opcodeWord_or_toNat _ (by omega), hz,
    show (0x2 : BitVec 4).toNat = 2 from rfl]
  omega

theorem txfailWord_toNat (r : Byte) : (txfailWord r).toNat = 0x3000000000000001 + r.toNat * 2 ^ 8 := by
  have hr : (place 64 r 8 ||| place 64 1#1 0).toNat = 2 ^ 8 * r.toNat + 1 :=
    Machine.place_or_toNat r (by decide) (by decide)
  rw [txfailWord, BitVec.or_assoc, opcodeWord_or_toNat _ (by omega), hr, show (0x3 : BitVec 4).toNat = 3 from rfl]
  omega

theorem rdfrmWord_toNat (idx : Byte) : (rdfrmWord idx).toNat = 0x5000000000000000 + idx.toNat := by
  have hidx := place_zero_toNat (width := 64) idx (by decide)
  rw [rdfrmWord, opcodeWord_or_toNat _ (by omega), hidx]
  rfl

/-- Settles O6: the operands of a line stand in places that do not meet, so the word is a sum. -/
theorem scriptWordsAreTheirArithmetic : Obligations.ScriptWordsAreTheirArithmetic :=
  ⟨by decide,
    fun n => ⟨_, encodeEvent_batch n, batchWord_toNat n⟩,
    fun x y z => ⟨_, encodeEvent_sample x y z, sampleWord_toNat x y z⟩,
    by decide,
    fun r => ⟨_, encodeEvent_txfail r, txfailWord_toNat r⟩,
    by decide,
    fun idx => ⟨_, encodeEvent_rdfrm idx, rdfrmWord_toNat idx⟩,
    by decide,
    by decide⟩

/-- Settles O1: each is a fixed word or a fixed field, on which the decoder runs. -/
theorem specWordsDecode : Obligations.SpecWordsDecode := by
  unfold Obligations.SpecWordsDecode
  decide

end Sys2Proof
end

section
/-! What a step runs (R8, R35, R37, U12): one equation per thing that `fetch` finds, and the statements on steps without
an event of the block. -/

namespace Sys2Proof.Machine

/-! ### A step, by what it finds -/

theorem fetch_of_event {s : State} (hr : s.port.rst = false) (he : s.port.evValid = true) :
    fetch s = .event (decodeEvent s.port.ev) := by
  simp [fetch, hr, he]

theorem fetch_of_field {s : State} {i : Instr} {rest : List Byte} (hr : s.port.rst = false)
    (he : s.port.evValid = false) (hd : decodeField s.rx.current.len.toNat s.rx.stream = .instr i rest) :
    fetch s = .field i rest := by
  simp [fetch, hr, he, hd]

theorem step_of_event {s : State} (hl : s.params.Legal) (hr : s.port.rst = false) (he : s.port.evValid = true) :
    step s = mapNext State.advance (exec (decodeEvent s.port.ev) s) := by
  rw [step, if_pos hl, fetch_of_event hr he]

theorem step_of_field {s : State} {i : Instr} {rest : List Byte} (hl : s.params.Legal) (hr : s.port.rst = false)
    (he : s.port.evValid = false) (hd : decodeField s.rx.current.len.toNat s.rx.stream = .instr i rest) :
    step s = mapNext State.advance (exec i (s.consume rest)) := by
  rw [step, if_pos hl, fetch_of_field hr he hd]

/-- Every event is well formed: its operands fill their fields. -/
theorem wellFormed_of_isEvent {i : Instr} (h : i.isEvent = true) : i.WellFormed := by
  cases i with
  | fTxnid id => cases h
  | fLen len => cases h
  | fPayload bytes => cases h
  | _ => trivial

/-- Settles O9: with an event on the port, the decoded event is what `fetch` finds. -/
theorem stepRunsDecodedEvent : Obligations.StepRunsDecodedEvent :=
  fun _ hl hr he => ⟨wellFormed_of_isEvent (decodeEvent_isEvent _), step_of_event hl hr he⟩

/-- Settles O10: without an event, the field at the front of the stream is what `fetch` finds. -/
theorem stepRunsReceivedField : Obligations.StepRunsReceivedField :=
  fun _ _ _ hl hr he hd => step_of_field hl hr he hd

/-- Settles O57: reset rewrites the block alone, and the taking in of the next cycle is that of every step. -/
theorem resetKeepsOutside : Obligations.ResetKeepsOutside := by
  intro s hl hr
  refine ⟨_, step_of_rst hl hr, ?_, ?_, ?_⟩
  · rw [State.advance_params, State.applyReset_params]
  · rw [KeepsReceiver, State.advance_rx, State.applyReset_rx, State.applyReset_arriving]
  · rw [State.advance_upcoming, State.applyReset_upcoming]

/-! ### Illegal parameters (R8, U12) -/

theorem mapNext_eq_refused_iff (f : State → State) (o : Outcome) (r : Refusal) :
    mapNext f o = .refused r ↔ o = .refused r := by
  cases o <;> simp [mapNext]

theorem completeBlock_ne_refused (s : State) (r : Refusal) : completeBlock s ≠ .refused r := by
  unfold completeBlock
  split <;> simp

/-- Every instruction has a meaning. -/
theorem exec_ne_refused (i : Instr) (s : State) (r : Refusal) : exec i s ≠ .refused r := by
  cases i with
  | sample x y z =>
    change execSample x y z s ≠ .refused r
    unfold execSample
    split
    · simp
    · split
      · simp
      · exact completeBlock_ne_refused _ r
  | _ => intro h; cases h

theorem step_ne_refused_of_legal {s : State} (hl : s.params.Legal) (r : Refusal) : step s ≠ .refused r := by
  rw [step, if_pos hl]
  split
  · simp
  · rw [Ne, mapNext_eq_refused_iff]; exact exec_ne_refused _ _ r
  · rw [Ne, mapNext_eq_refused_iff]; exact exec_ne_refused _ _ r
  · simp

/-- Settles O14: `step` itself refuses illegal parameters, and no instruction refuses anything. -/
theorem illegalParametersRefused : Obligations.IllegalParametersRefused := by
  refine fun s => ⟨⟨fun h hl => step_ne_refused_of_legal hl _ h, step_of_illegal⟩, fun hrate => step_of_illegal ?_⟩
  rintro ⟨hpos, hmax, -, -⟩
  omega

/-! ### A step that waits -/

theorem step_of_no_field {s : State} (hl : s.params.Legal) (hr : s.port.rst = false) (he : s.port.evValid = false)
    (h : ∀ i rest, decodeField s.rx.current.len.toNat s.rx.stream ≠ .instr i rest) :
    ∃ t, step s = .next t ∧ KeepsReceiver s.arriving s t ∧ KeepsBlock s t ∧ t.out = .zero :=
  ⟨_, step_of_wait hl (fetch_of_no_field hr he h), quiet_advance_keeps s⟩

/-- Taking in the next inputs touches no field of the block. -/
theorem State.advance_keepsBlock (s : State) : KeepsBlock s s.advance := by
  simp [KeepsBlock, KeepsBatch, KeepsFrame, KeepsBytes, KeepsTransaction]

theorem State.consume_keepsBlock (rest : List Byte) (s : State) : KeepsBlock s (s.consume rest) := by
  simp [KeepsBlock, KeepsBatch, KeepsFrame, KeepsBytes, KeepsTransaction]

theorem KeepsBlock.trans {s t u : State} (hst : KeepsBlock s t) (htu : KeepsBlock t u) : KeepsBlock s u := by
  obtain ⟨⟨hwin, hphase, hrem⟩, ⟨hbytes, hcursor, hcount⟩, hpending, hid⟩ := hst
  obtain ⟨⟨hwin', hphase', hrem'⟩, ⟨hbytes', hcursor', hcount'⟩, hpending', hid'⟩ := htu
  exact ⟨⟨hwin'.trans hwin, hphase'.trans hphase, hrem'.trans hrem⟩,
    ⟨fun a => (hbytes' a).trans (hbytes a), hcursor'.trans hcursor, hcount'.trans hcount⟩,
    hpending'.trans hpending, hid'.trans hid⟩

/-- Settles O11: the step waits, or it runs a field, and neither touches the block. -/
theorem noEventNoChange : Obligations.NoEventNoChange := by
  intro s hl hr he
  by_cases hfield : ∃ i rest, decodeField s.rx.current.len.toNat s.rx.stream = .instr i rest
  · obtain ⟨i, rest, hd⟩ := hfield
    have hi := decodeField_isEvent hd
    obtain ⟨u, hu⟩ := exec_field_isNext hi (s.consume rest)
    obtain ⟨hblock, hout, hparams, -⟩ := exec_field_next hi hu
    refine ⟨u.advance, ?_, ((s.consume_keepsBlock rest).trans hblock).trans u.advance_keepsBlock,
      u.advance_out.trans hout, u.advance_params.trans hparams⟩
    rw [step_of_field hl hr he hd, hu, mapNext_next]
  · have hwait := fetch_of_no_field hr he fun i rest hd => hfield ⟨i, rest, hd⟩
    obtain ⟨-, hblock, hout⟩ := quiet_advance_keeps s
    exact ⟨_, step_of_wait hl hwait, hblock, hout, s.quiet.advance_params⟩

/-- Settles O15: such a byte is none of the three tags, so the decoder reads no field. -/
theorem unknownTagHoldsReceiver : Obligations.UnknownTagHoldsReceiver := by
  intro s tag rest hl hr he hstream htag
  refine step_of_no_field hl hr he fun i rest' hd => ?_
  have hne {known : Byte} (hknown : 1 ≤ known.toNat ∧ known.toNat ≤ 3) : tag ≠ known := by
    rintro rfl
    omega
  rw [hstream, decodeField_unknown _ _ _ (hne (by decide)) (hne (by decide)) (hne (by decide))] at hd
  cases hd

/-! ### A field that has not wholly arrived -/

theorem decodeField_tagPayload_short {len : Nat} {value : List Byte} (h : value.length < len) :
    decodeField len (tagPayload :: value) = .incomplete := by
  simp [decodeField, tagId, tagLen, tagPayload, Nat.not_le.mpr h]

/-- Fewer than all of a field's bytes are no whole field. -/
theorem decodeField_take {i : Instr} (hi : i.isEvent = false) {len : Nat} (hlen : FitsLength len i) {n : Nat}
    (hn : n < (encodeField i).length) : decodeField len ((encodeField i).take n) = .incomplete := by
  cases i with
  | fTxnid id =>
    change n < 5 at hn
    interval_cases n <;> rfl
  | fLen l =>
    change n < 2 at hn
    interval_cases n <;> rfl
  | fPayload bytes =>
    obtain rfl := hlen bytes rfl
    cases n with
    | zero => rfl
    | succ k =>
      have hk : k < bytes.length := by simpa [encodeField] using hn
      exact decodeField_tagPayload_short (by rw [List.length_take]; omega)
  | _ => cases hi

/-- Settles O8: the bytes that have arrived are no field (`decodeField_take`), so a step with nothing else waits. -/
theorem fieldPrefixIsIncomplete : Obligations.FieldPrefixIsIncomplete := by
  refine fun i hi n hn => ⟨decodeField_take hi (fitsLength_lengthBefore i) hn, ?_⟩
  intro s hl hr he hstream hlen
  refine step_of_no_field hl hr he fun i' rest hd => ?_
  rw [hstream, decodeField_take hi hlen hn] at hd
  cases hd

end Sys2Proof.Machine
end

section
/-! The receiver (R82): what it has read after a field, and after all fields of a serialised message (R80). -/

namespace Sys2Proof.Machine

/-! ### One field -/

/-- The receiver after the field `i`: the field's value beside what it had read of the same message. -/
def Receiver.afterField (i : Instr) (r : Receiver) : Receiver :=
  match i with
  | .fTxnid id => { r.current with id := some id }
  | .fLen len => { r.current with len := len }
  | .fPayload bytes => { r.current with payload := bytes, complete := true }
  | _ => r

theorem exec_field {i : Instr} (hi : i.isEvent = false) (s : State) :
    exec i s = .next { s.quiet with rx := s.rx.afterField i } := by
  cases i with
  | fTxnid id => rfl
  | fLen len => rfl
  | fPayload bytes => rfl
  | _ => cases hi

/-- What a field leaves, in every state. -/
theorem exec_field_reads {i : Instr} (hi : i.isEvent = false) (s : State) :
    ∃ t, exec i s = .next t ∧ t.rx = s.rx.afterField i ∧ KeepsBlock s t ∧ t.params = s.params ∧ t.port = s.port ∧
      t.upcoming = s.upcoming ∧ t.out = .zero := by
  obtain ⟨hblock, hout, hparams, hport, hupcoming, -⟩ := exec_field_next hi (exec_field hi s)
  exact ⟨_, exec_field hi s, rfl, hblock, hparams, hport, hupcoming, hout⟩

/-- Settles O42: the three fields are the three cases of `Receiver.afterField`. -/
theorem wireFieldsAreRead : Obligations.WireFieldsAreRead :=
  fun s => ⟨fun id => exec_field_reads (i := .fTxnid id) rfl s, fun len => exec_field_reads (i := .fLen len) rfl s,
    fun bytes => exec_field_reads (i := .fPayload bytes) rfl s⟩

/-! ### A whole message -/

/-- The machine under an outside that presents nothing: legal parameters, no event, no reset, no inputs to come. -/
structure State.Undisturbed (s : State) : Prop where
  params_legal : s.params.Legal
  no_reset : s.port.rst = false
  no_event : s.port.evValid = false
  no_inputs : s.upcoming = []

theorem State.Undisturbed.advance {s : State} (hl : s.params.Legal) (hu : s.upcoming = []) :
    s.advance.Undisturbed ∧ s.advance.rx = s.rx := by
  have hadvance : s.advance = { s with port := .quiet s.port.env } := by
    rw [State.advance, hu]
  rw [hadvance]
  exact ⟨⟨hl, rfl, rfl, hu⟩, rfl⟩

/-- R80 against R82, one field: an undisturbed step with the field's bytes in front of the stream reads that field. -/
theorem step_reads_field {s : State} (hs : s.Undisturbed) {i : Instr} (hi : i.isEvent = false)
    (hlen : FitsLength s.rx.current.len.toNat i) {rest : List Byte} (hstream : s.rx.stream = encodeField i ++ rest) :
    ∃ t, step s = .next t ∧ t.Undisturbed ∧ t.rx = (Receiver.afterField i { s.rx with stream := rest }) ∧
      KeepsBlock s t := by
  obtain ⟨hl, hr, he, hupcoming⟩ := hs
  have hd : decodeField s.rx.current.len.toNat s.rx.stream = .instr i rest := by
    rw [hstream, decodeField_encodeField hi hlen]
  obtain ⟨u, hu, hrx, hblock, hparams, -, hupcoming', -⟩ := exec_field_reads hi (s.consume rest)
  obtain ⟨hundisturbed, hkept⟩ := State.Undisturbed.advance (s := u) (hparams ▸ hl) (hupcoming'.trans hupcoming)
  refine ⟨u.advance, ?_, hundisturbed, hkept.trans hrx,
    ((s.consume_keepsBlock rest).trans hblock).trans u.advance_keepsBlock⟩
  rw [step_of_field hl hr he hd, hu, mapNext_next]

theorem Receiver.current_withStream (stream : List Byte) (r : Receiver) :
    Receiver.current { r with stream := stream } = { r.current with stream := stream } := by
  unfold Receiver.current
  split <;> rfl

theorem runSteps_succ {n : Nat} {s t : State} (h : step s = .next t) : runSteps (n + 1) s = runSteps n t := by
  rw [runSteps, h]

/-- The two fields that every message has: the length, then the payload that it counts. -/
theorem runSteps_reads_len_payload {s : State} (hs : s.Undisturbed) {id : Option Word} {len : Byte}
    {payload rest : List Byte} (hlen : len.toNat = payload.length)
    (hrx : s.rx.current = { Receiver.idle ([tagLen, len] ++ tagPayload :: payload ++ rest) with id := id }) :
    ∃ t, runSteps 2 s = .next t ∧
      t.rx = { stream := rest, id := id, len := len, payload := payload, complete := true } ∧ KeepsBlock s t := by
  have hstream : s.rx.stream = encodeField (.fLen len) ++ (encodeField (.fPayload payload) ++ rest) := by
    rw [← Receiver.current_stream, hrx]
    simp [Receiver.idle, encodeField]
  obtain ⟨t, ht, htu, htrx, htblock⟩ := step_reads_field hs rfl (by rintro bytes ⟨⟩) hstream
  rw [Receiver.afterField, Receiver.current_withStream, hrx] at htrx
  have hfits : FitsLength t.rx.current.len.toNat (.fPayload payload) := by
    rintro bytes ⟨⟩
    rw [htrx]
    exact hlen
  obtain ⟨u, hu, -, hurx, hublock⟩ := step_reads_field htu (i := .fPayload payload) rfl hfits (by rw [htrx])
  refine ⟨u, by rw [runSteps_succ ht, runSteps_succ hu, runSteps], ?_, htblock.trans hublock⟩
  rw [hurx, htrx]
  rfl

/-- Settles O43: the id's field, if there is one, is read first, then the two that every message has. -/
theorem receiverReadsWhatWasSerialised : Obligations.ReceiverReadsWhatWasSerialised := by
  rintro ⟨id, len, payload⟩ s rest hl hr he hupcoming hrx hlen -
  have hs : s.Undisturbed := ⟨hl, hr, he, hupcoming⟩
  cases id with
  | none =>
    rw [serialise_of_no_id] at hrx
    obtain ⟨t, ht, htrx, hblock⟩ := runSteps_reads_len_payload hs hlen hrx
    exact ⟨t, ht, by rw [htrx]; rfl, by rw [htrx], by rw [htrx], hblock⟩
  | some id =>
    rw [serialise_of_id] at hrx
    have hstream : s.rx.stream = encodeField (.fTxnid id) ++ ([tagLen, len] ++ tagPayload :: payload ++ rest) := by
      rw [← Receiver.current_stream, hrx]
      simp [Receiver.idle, encodeField]
    obtain ⟨t, ht, htu, htrx, htblock⟩ := step_reads_field hs rfl (by rintro bytes ⟨⟩) hstream
    rw [Receiver.afterField, Receiver.current_withStream, hrx] at htrx
    have htcurrent : t.rx.current =
        { Receiver.idle ([tagLen, len] ++ tagPayload :: payload ++ rest) with id := some id } := by
      rw [htrx]
      rfl
    obtain ⟨u, hu, hurx, hublock⟩ := runSteps_reads_len_payload htu hlen htcurrent
    exact ⟨u, (runSteps_succ ht).trans hu, by rw [hurx]; rfl, by rw [hurx], by rw [hurx], htblock.trans hublock⟩

end Sys2Proof.Machine
end

section
/-! FIR5 and QUANT as integer functions (R104 to R108, R120 to R123). -/

namespace Sys2Proof.Machine

/-- Settles O28: the range is `firSum_range`; the two ends are reached by the constant blocks. -/
theorem firRange : Obligations.FirRange :=
  ⟨firSum_range, by rw [firSum_eq]; norm_num, by rw [firSum_eq]; norm_num⟩

/-- Settles O29: the tap shifts are a palindrome, and on a multiple of 32 every shift is exact. -/
theorem firSymmetryAndUnityGain : Obligations.FirSymmetryAndUnityGain := by
  refine ⟨fun s0 s1 s2 s3 s4 => ?_, fun k => ?_⟩ <;> rw [firSum_eq]
  · rw [firSum_eq]
    omega
  · omega

/-- R108 and R120: the quantized filter output of a window, without the accumulator's width. -/
theorem quantize_fir5 {accW : Nat} (hw : 17 ≤ accW) (shift : Nat) (w : Window) :
    quantize shift (fir5 accW w) =
      { x := quant shift (firSum w.s0.x.toInt w.s1.x.toInt w.s2.x.toInt w.s3.x.toInt w.s4.x.toInt)
        y := quant shift (firSum w.s0.y.toInt w.s1.y.toInt w.s2.y.toInt w.s3.y.toInt w.s4.y.toInt)
        z := quant shift (firSum w.s0.z.toInt w.s1.z.toInt w.s2.z.toInt w.s3.z.toInt w.s4.z.toInt) } := by
  simp only [quantize, fir5, firLane_eq_firSum hw, sext16]

/-! ### QUANT as a clamp -/

/-- R10: the floor shift reaches `c` exactly where the value reaches `c << shift`. -/
theorem le_asr_iff (c v : Int) (shift : Nat) : c ≤ asr v shift ↔ c * 2 ^ shift ≤ v :=
  Int.le_ediv_iff_mul_le (by positivity)

theorem asr_le_asr {v v' : Int} (h : v ≤ v') (shift : Nat) : asr v shift ≤ asr v' shift :=
  Int.ediv_le_ediv (by positivity) h

theorem clamp_of_le {v lo hi : Int} (h : lo ≤ hi) (hv : v ≤ lo) : clamp v lo hi = lo := by
  unfold clamp; split <;> [rfl; (split <;> omega)]

theorem clamp_of_ge {v lo hi : Int} (h : lo ≤ hi) (hv : hi ≤ v) : clamp v lo hi = hi := by
  unfold clamp; split <;> [omega; (split <;> omega)]

theorem clamp_of_within {v lo hi : Int} (hlo : lo ≤ v) (hhi : v ≤ hi) : clamp v lo hi = v := by
  unfold clamp; split <;> [omega; (split <;> omega)]

theorem clamp_le_clamp {v v' : Int} (h : v ≤ v') (lo hi : Int) (hb : lo ≤ hi) : clamp v lo hi ≤ clamp v' lo hi := by
  unfold clamp; split <;> split <;> omega

/-- A signed byte's value is not changed by the mask. -/
theorem sext8_maskByte {v : Int} (hlo : -128 ≤ v) (hhi : v ≤ 127) : sext8 (maskByte v) = v := by
  rw [sext8, maskByte, BitVec.toInt_ofInt, show (256 : Int) = ((2 ^ 8 : Nat) : Int) from rfl, Int.emod_bmod]
  exact Int.bmod_eq_of_le_mul_two (by omega) (by omega)

/-- Settles O32: beyond its bounds QUANT and the clamp saturate, and between them neither changes the floor shift. -/
theorem quantIsClampedShift : Obligations.QuantIsClampedShift := by
  intro shift v
  by_cases habove : 127 * 2 ^ shift < v
  · rw [quant_of_above habove, clamp_of_ge (by decide) ((le_asr_iff _ _ _).mpr habove.le)]
    decide
  · by_cases hbelow : v < -128 * 2 ^ shift
    · have hlt := mt (le_asr_iff _ _ _).mp (not_le.mpr hbelow)
      rw [quant_of_below hbelow, clamp_of_le (by decide) (by omega)]
      decide
    · have hlo := (le_asr_iff _ _ _).mpr (not_lt.mp hbelow)
      have hhi : ¬ 128 ≤ asr v shift := by
        have hpow : (0 : Int) < 2 ^ shift := by positivity
        rw [le_asr_iff]
        omega
      rw [quant_of_within (not_lt.mp hbelow) (not_lt.mp habove), sext8_maskByte hlo (by omega),
        clamp_of_within hlo (by omega)]

/-- Settles O33: the saturation and the monotony are those of the clamp (`quantIsClampedShift`), the masked shift is
QUANT's own branch. -/
theorem quantContract : Obligations.QuantContract := by
  intro shift
  refine ⟨fun v hv => ?above, fun v hv => ?below, fun v hlo hhi => ?within, fun v v' h => ?monotonic⟩
  case above => rw [quantIsClampedShift, clamp_of_ge (by decide) ((le_asr_iff _ _ _).mpr hv)]
  case below =>
    have hlt : ¬ -127 ≤ asr v shift := by
      have hpow : (0 : Int) < 2 ^ shift := by positivity
      rw [le_asr_iff]
      omega
    rw [quantIsClampedShift, clamp_of_le (by decide) (by omega)]
  case within => rw [quant_of_within hlo.le hhi.le, maskByte_toNat]
  case monotonic =>
    rw [quantIsClampedShift, quantIsClampedShift]
    exact clamp_le_clamp (asr_le_asr h shift) _ _ (by decide)

end Sys2Proof.Machine
end

section
/-! What a completed block does (R102, R130, R131, R141): APPEND of its triplet, and SEND if that filled the frame. -/

namespace Sys2Proof.Machine

/-! ### APPEND and SEND as one update -/

/-- `s` with the triplet `q` in its frame at the cursor (R130). -/
def State.storing (q : QuantizedSample) (s : State) : State :=
  { s with
    frame := ((s.frame.write s.cursor.toNat q.x).write (s.cursor.toNat + 1) q.y).write (s.cursor.toNat + 2) q.z }

/-- `s` after APPEND of `q` and, if that filled the frame, SEND: what a completed block does where its triplet fits. -/
def State.absorb (q : QuantizedSample) (s : State) : State := sendIfFull (advanceCursor (s.storing q))

theorem storeTriplet_eq_storing_iff (q : QuantizedSample) (s t : State) :
    storeTriplet q s = some t ↔ s.cursor.toNat + numAxes ≤ s.cap ∧ t = s.storing q :=
  storeTriplet_eq_some_iff q s t

theorem append_of_fits {s : State} (h : s.cursor.toNat + numAxes ≤ s.cap) (q : QuantizedSample) :
    append q s = some (advanceCursor (s.storing q)) :=
  (append_eq_some_iff q s _).mpr ⟨_, (storeTriplet_eq_storing_iff q s _).mpr ⟨h, rfl⟩, rfl⟩

theorem append_of_overrun {s : State} (h : ¬ s.cursor.toNat + numAxes ≤ s.cap) (q : QuantizedSample) :
    append q s = none := by
  rw [← append_isSome_iff q s, Option.not_isSome_iff_eq_none] at h
  exact h

theorem completeBlock_of_fits {s : State} (h : s.cursor.toNat + numAxes ≤ s.cap) :
    completeBlock s = .next (s.absorb (blockOutput s)) := by
  rw [completeBlock, append_of_fits h]
  rfl

theorem completeBlock_of_overrun {s : State} (h : ¬ s.cursor.toNat + numAxes ≤ s.cap) :
    completeBlock s = .fault .frameOverrun := by
  rw [completeBlock, append_of_overrun h]

/-! ### What it leaves alone -/

@[simp] theorem State.absorb_params (q : QuantizedSample) (s : State) : (s.absorb q).params = s.params := by
  simp [State.absorb, State.storing]
@[simp] theorem State.absorb_win (q : QuantizedSample) (s : State) : (s.absorb q).win = s.win := by
  simp [State.absorb, State.storing]
@[simp] theorem State.absorb_phase (q : QuantizedSample) (s : State) : (s.absorb q).phase = s.phase := by
  simp [State.absorb, State.storing]
@[simp] theorem State.absorb_rem (q : QuantizedSample) (s : State) : (s.absorb q).rem = s.rem := by
  simp [State.absorb, State.storing]
@[simp] theorem State.absorb_port (q : QuantizedSample) (s : State) : (s.absorb q).port = s.port := by
  simp [State.absorb, State.storing]
@[simp] theorem State.absorb_upcoming (q : QuantizedSample) (s : State) : (s.absorb q).upcoming = s.upcoming := by
  simp [State.absorb, State.storing]
@[simp] theorem State.absorb_rx (q : QuantizedSample) (s : State) : (s.absorb q).rx = s.rx := by
  simp [State.absorb, State.storing]
@[simp] theorem State.absorb_cap (q : QuantizedSample) (s : State) : (s.absorb q).cap = s.cap := by
  simp [State.cap]
@[simp] theorem State.absorb_frame (q : QuantizedSample) (s : State) :
    (s.absorb q).frame = (s.storing q).frame := by
  simp [State.absorb]

theorem State.absorb_keepsOutside (q : QuantizedSample) (s : State) : KeepsOutside s (s.absorb q) := by
  simp [KeepsOutside]

/-! ### What it does to the frame -/

/-- The stored triplet is read back, every other byte stays, and the frame keeps its form. -/
theorem State.absorb_bytes {s : State} (hwf : s.frame.wf) (h : s.cursor.toNat + numAxes ≤ s.cap)
    (q : QuantizedSample) :
    (s.absorb q).frame.wf ∧ HoldsTriplet q s (s.absorb q) ∧ KeepsOtherBytes s (s.absorb q) := by
  simp only [HoldsTriplet, KeepsOtherBytes, State.absorb_frame]
  exact storeTriplet_bytes hwf ((storeTriplet_eq_storing_iff q s _).mpr ⟨h, rfl⟩)

/-! ### What it does to cursor, counter, transaction and outputs -/

theorem State.absorb_of_not_full {s : State} (h : s.cursor.toNat + numAxes ≠ s.cap) (hout : s.out.frameFull = false)
    (q : QuantizedSample) : s.absorb q = advanceCursor (s.storing q) := by
  refine sendIfFull_of_not_full ?_
  rw [advanceCursor_of_not_full (s := s.storing q) h]
  exact hout

theorem State.absorb_of_full {s : State} (h : s.cursor.toNat + numAxes = s.cap) (q : QuantizedSample) :
    s.absorb q = send (advanceCursor (s.storing q)) := by
  have hfull : (advanceCursor (s.storing q)).out.frameFull = true := by
    rw [advanceCursor_of_full (s := s.storing q) h]
  rw [State.absorb, sendIfFull, if_pos hfull]

theorem State.absorb_not_full_values {s : State} (hl : s.params.Legal) (hc : s.cursor.toNat + numAxes < s.cap)
    (hout : s.out.frameFull = false) (q : QuantizedSample) :
    (s.absorb q).cursor.toNat = s.cursor.toNat + numAxes ∧ (s.absorb q).byteCount = s.byteCount ∧
      KeepsTransaction s (s.absorb q) ∧ (s.absorb q).out = s.out := by
  rw [State.absorb_of_not_full hc.ne hout]
  obtain ⟨hcursor, hcount, hkept⟩ := advanceCursor_not_full_values (s := s.storing q) hl hc.le hc.ne
  exact ⟨hcursor, hcount, ⟨advanceCursor_pending _, advanceCursor_curId _⟩, hkept⟩

theorem State.absorb_full_values {s : State} (h : s.cursor.toNat + numAxes = s.cap) (q : QuantizedSample) :
    (s.absorb q).cursor = 0 ∧ (s.absorb q).byteCount.toNat = (s.byteCount.toNat + s.cap) % 2 ^ 32 := by
  rw [State.absorb_of_full h, send_cursor, send_byteCount]
  obtain ⟨hcursor, hcount, -⟩ := advanceCursor_full_values (s := s.storing q) h
  exact ⟨hcursor, hcount⟩

/-- R141, R143: the full frame is dropped. -/
theorem State.absorb_of_dropped {s : State} (h : s.cursor.toNat + numAxes = s.cap)
    (hdrop : s.pending = true ∨ s.port.env.txReady = false) (q : QuantizedSample) :
    KeepsTransaction s (s.absorb q) ∧ (s.absorb q).out = { s.out with frameFull := true } := by
  have hsend : s.absorb q = advanceCursor (s.storing q) := by
    rw [State.absorb_of_full h]
    rcases hdrop with hp | hr
    · exact send_of_pending ((advanceCursor_pending _).trans hp)
    · exact send_of_busy (by rw [advanceCursor_port]; exact hr)
  rw [hsend, advanceCursor_of_full (s := s.storing q) h]
  exact ⟨⟨rfl, rfl⟩, rfl⟩

/-- R141: the full frame is handed over. -/
theorem State.absorb_of_begun {s : State} (h : s.cursor.toNat + numAxes = s.cap) (hp : s.pending = false)
    (hr : s.port.env.txReady = true) (q : QuantizedSample) :
    s.absorb q = beginTransaction (advanceCursor (s.storing q)) := by
  rw [State.absorb_of_full h]
  exact send_of_ready ((advanceCursor_pending _).trans hp) (by rw [advanceCursor_port]; exact hr)

/-- R142: the message of the begin carries the frame as the triplet leaves it. -/
theorem State.absorb_begun_values {s : State} (hl : s.params.Legal) (h : s.cursor.toNat + numAxes = s.cap)
    (hp : s.pending = false) (hr : s.port.env.txReady = true) (q : QuantizedSample) :
    (s.absorb q).pending = true ∧
      (0 ≤ s.port.env.txnIdIn.toInt →
        (s.absorb q).curId = s.port.env.txnIdIn ∧ (s.absorb q).out.txMsg.id = some s.port.env.txnIdIn) ∧
      (s.port.env.txnIdIn.toInt < 0 → (s.absorb q).curId.toInt = -1 ∧ (s.absorb q).out.txMsg.id = none) ∧
      (s.absorb q).out.txMsg.len.toNat = s.cap ∧
      (s.absorb q).out.txMsg.payload = (List.range s.cap).map (s.absorb q).frame.read ∧
      (s.absorb q).out = { s.out with frameFull := true, txValid := true, txMsg := (s.absorb q).out.txMsg } := by
  obtain ⟨hlen, -⟩ := message_len_payload (State.cap_lt_of_legal (s := s) hl)
  rw [State.absorb_of_begun h hp hr, advanceCursor_of_full (s := s.storing q) h]
  exact ⟨rfl, beginTransaction_id_of_id, beginTransaction_id_of_no_id, hlen, rfl, rfl⟩

/-- A SAMPLE that completes a block whose triplet fits: its block is absorbed. -/
theorem exec_sample_of_fits {x y z : Half} {s : State} (hr : s.rem ≠ 0) (hp : s.phase = 4)
    (hc : s.cursor.toNat + numAxes ≤ s.cap) :
    exec (.sample x y z) s =
      .next ((s.quiet.takeSample ⟨x, y, z⟩).absorb (blockOutput (s.quiet.takeSample ⟨x, y, z⟩))) :=
  (execSample_of_last hr hp).trans (completeBlock_of_fits hc)

end Sys2Proof.Machine
end

section
/-! SAMPLE (R102): its three cases as statements on the next state. -/

namespace Sys2Proof.Machine

/-- Counting down does not wrap where there is a sample to come. -/
theorem toNat_sub_one {r : Word} (h : r ≠ 0) : (r - 1).toNat = r.toNat - 1 := by
  bv_omega

theorem nextPhase_val {p : Fin 5} (h : p.val < 4) : (nextPhase p).val = p.val + 1 := by
  revert p
  decide

/-- Settles O19: outside a batch a SAMPLE only clears the outputs. -/
theorem sampleOutsideBatchIgnored : Obligations.SampleOutsideBatchIgnored :=
  fun _ _ _ _ hr => doesNothing_of_exec_eq_quiet (execSample_of_closed hr)

/-- An accepted sample before its block is looked at: what it leaves alone. -/
theorem State.takeSample_keeps (v : RawSample) (s : State) :
    KeepsFrame s (s.takeSample v) ∧ KeepsTransaction s (s.takeSample v) ∧ KeepsOutside s (s.takeSample v) := by
  simp [KeepsFrame, KeepsBytes, KeepsTransaction, KeepsOutside]

/-- Settles O20: with room in the block the sample goes into its window entry, and that is all. -/
theorem sampleCollected : Obligations.SampleCollected := by
  intro x y z s hr hp
  obtain ⟨hframe, htransaction, houtside⟩ := State.takeSample_keeps ⟨x, y, z⟩ s.quiet
  exact ⟨_, execSample_of_collecting hr hp, toNat_sub_one hr, nextPhase_val hp, Window.get_set_same _ _ _,
    fun p hne => Window.get_set_other _ _ _ _ hne, hframe, htransaction, houtside, rfl⟩

/-- The fifth sample of a block stands last in the window. -/
theorem win_takeSample_of_last {s : State} (hp : s.phase = 4) (v : RawSample) :
    (s.quiet.takeSample v).win = s.win.set 4 v := by
  rw [State.takeSample_win, State.quiet_phase, hp, State.quiet_win]

/-- Settles O21: the block is the window with the fifth sample in its last entry, and its filter output goes into the
frame at the cursor (`State.absorb_bytes`). -/
theorem sampleCompletesBlock : Obligations.SampleCompletesBlock := by
  intro x y z s hl hwf hr hp hc
  obtain ⟨-, -, hacc, -⟩ := hl
  have hwin := win_takeSample_of_last hp ⟨x, y, z⟩
  have hexec := exec_sample_of_fits (x := x) (y := y) (z := z) hr hp hc
  rw [blockOutput, hwin, State.takeSample_params, State.quiet_params, quantize_fir5 hacc] at hexec
  obtain ⟨-, hholds, hother⟩ := State.absorb_bytes (s := s.quiet.takeSample ⟨x, y, z⟩) hwf hc _
  refine ⟨_, hexec, ?_, ?_, ?_, fun p hne => ?_, hholds, hother, State.absorb_keepsOutside _ _⟩
  · rw [State.absorb_rem]
    exact toNat_sub_one hr
  · rw [State.absorb_phase, State.takeSample_phase, State.quiet_phase, hp]
    rfl
  · rw [State.absorb_win, hwin, Window.get_set_same]
  · rw [State.absorb_win, hwin, Window.get_set_other _ _ _ _ hne]

/-- Settles O22: below CAP the cursor moves on and nothing is signalled. -/
theorem sampleNotFullAdvancesCursor : Obligations.SampleNotFullAdvancesCursor := by
  intro x y z s hl hr hp hc
  exact ⟨_, exec_sample_of_fits hr hp hc.le,
    State.absorb_not_full_values (s := s.quiet.takeSample ⟨x, y, z⟩) hl hc rfl _⟩

/-- Settles O23: the frame is full and SEND drops it. -/
theorem sampleFullFrameDropped : Obligations.SampleFullFrameDropped := by
  intro x y z s hr hp hc hdrop
  obtain ⟨hcursor, hcount⟩ := State.absorb_full_values (s := s.quiet.takeSample ⟨x, y, z⟩) hc
    (blockOutput (s.quiet.takeSample ⟨x, y, z⟩))
  exact ⟨_, exec_sample_of_fits hr hp hc.le, hcursor, hcount,
    State.absorb_of_dropped (s := s.quiet.takeSample ⟨x, y, z⟩) hc hdrop _⟩

/-- Settles O24: the frame is full and SEND begins a transaction with it. -/
theorem sampleFullFrameBegins : Obligations.SampleFullFrameBegins := by
  intro x y z s hl hr hp hc hidle hready
  obtain ⟨hcursor, hcount⟩ := State.absorb_full_values (s := s.quiet.takeSample ⟨x, y, z⟩) hc
    (blockOutput (s.quiet.takeSample ⟨x, y, z⟩))
  obtain ⟨hpending, hid, hnoid, hlen, hpayload, hout⟩ :=
    State.absorb_begun_values (s := s.quiet.takeSample ⟨x, y, z⟩) hl hc hidle hready
      (blockOutput (s.quiet.takeSample ⟨x, y, z⟩))
  refine ⟨_, exec_sample_of_fits hr hp hc.le, hcursor, hcount, hpending, hid, hnoid, hlen, hpayload, ?_⟩
  rw [hout]
  exact ⟨rfl, rfl, rfl, rfl⟩

end Sys2Proof.Machine
end

section
/-! The invariant of R31: reset meets it and every step keeps it; in a state that meets it every step completes. -/

namespace Sys2Proof.Machine

/-! ### Reset -/

/-- R8: a legal frame has room for a triplet. -/
theorem State.numAxes_le_cap {s : State} (hl : s.params.Legal) : 0 + numAxes ≤ s.cap := by
  obtain ⟨hrate, -, -, -⟩ := hl
  simp only [State.cap, Params.cap, numAxes]
  omega

/-- Reset meets R31 under every legal configuration. -/
theorem State.applyReset_inv {s : State} (hl : s.params.Legal) : s.applyReset.Inv where
  params_legal := hl
  frame_wf := Memory.wf_nil
  frame_within := by rintro c ⟨⟩
  cursor_in := State.numAxes_le_cap hl
  cursor_aligned := rfl
  id_range := absentId_toInt.ge
  idle_id _ := rfl
  byteCount_frames := ⟨0, rfl⟩

/-- Settles O44: the state after reset is a reset, and its configuration is legal. -/
theorem resetMeetsInvariant : Obligations.ResetMeetsInvariant :=
  State.applyReset_inv (s := State.reset) (by decide)

/-- Settles O13: the fields are R34's by definition; each read answers its view of them. -/
theorem resetStateReadsAsSpecified : Obligations.ResetStateReadsAsSpecified := by
  have hframe (idx : Byte) : frameView idx State.reset = 0 := by
    rcases Nat.lt_or_ge idx.toNat State.reset.cap with h | h
    · rw [frameView, memRead_of_lt h]; rfl
    · exact frameView_of_ge h
  refine ⟨rfl, rfl, State.applyReset_frame_read State.reset, rfl, rfl, rfl, absentId_toInt, exec_rdcnt _,
    fun idx => ?_, ?_, exec_rdtxid _⟩
  · rw [exec_rdfrm, hframe]
  · rw [exec_rdstat]; rfl

/-! ### The operations of a step -/

/-- What the invariant speaks of: a state that agrees on it, with the same id or with none pending, meets it too. -/
theorem State.Inv.of_eq {s t : State} (hs : s.Inv) (hparams : t.params = s.params) (hframe : t.frame = s.frame)
    (hcursor : t.cursor = s.cursor) (hcount : t.byteCount = s.byteCount)
    (htransaction : (t.pending = s.pending ∧ t.curId = s.curId) ∨ t.curId = absentId) : t.Inv where
  params_legal := hparams ▸ hs.params_legal
  frame_wf := hframe ▸ hs.frame_wf
  frame_within := by rw [State.cap, hparams, hframe]; exact hs.frame_within
  cursor_in := by rw [State.cap, hparams, hcursor]; exact hs.cursor_in
  cursor_aligned := hcursor ▸ hs.cursor_aligned
  id_range := by
    rcases htransaction with ⟨-, hid⟩ | hid
    · rw [hid]; exact hs.id_range
    · rw [hid]; exact absentId_toInt.ge
  idle_id := by
    rcases htransaction with ⟨hpending, hid⟩ | hid
    · rw [hpending, hid]; exact hs.idle_id
    · exact fun _ => hid
  byteCount_frames := by rw [State.cap, hparams, hcount]; exact hs.byteCount_frames

theorem latchedId_range (id : Word) : -1 ≤ (latchedId id).toInt := by
  by_cases h : 0 ≤ id.toInt
  · rw [latchedId_of_id h]; omega
  · rw [latchedId_of_no_id h, absentId_toInt]

/-- A begin latches an id, or -1 for none, and is pending. -/
theorem State.Inv.beginTransaction {s : State} (hs : s.Inv) : (beginTransaction s).Inv :=
  { hs with
    id_range := latchedId_range _
    idle_id := fun h => nomatch h }

theorem State.Inv.sendIfFull {s : State} (hs : s.Inv) : (sendIfFull s).Inv := by
  unfold Machine.sendIfFull
  split
  · rcases send_cases s with ⟨hsend, -⟩ | ⟨hsend, -⟩ <;> rw [hsend]
    · exact hs
    · exact hs.beginTransaction
  · exact hs

theorem State.Inv.storing {s : State} (hs : s.Inv) (q : QuantizedSample) : (s.storing q).Inv :=
  have hstore := (storeTriplet_eq_storing_iff q s (s.storing q)).mpr ⟨hs.cursor_in, rfl⟩
  { hs with
    frame_wf := (storeTriplet_bytes hs.frame_wf hstore).1
    frame_within := storeTriplet_within (s := s) hs.frame_within hstore }

/-- The cursor moves by a whole triplet, and CAP is a whole number of triplets, so it stays clear of CAP or wraps. -/
theorem State.Inv.advanceCursor_cursor {s : State} (hs : s.Inv) :
    (advanceCursor s).cursor.toNat + numAxes ≤ s.cap ∧ (advanceCursor s).cursor.toNat % numAxes = 0 := by
  have hin := hs.cursor_in
  have haligned := hs.cursor_aligned
  have hcap : s.cap % numAxes = 0 := Nat.mul_mod_left _ _
  by_cases hfull : s.cursor.toNat + numAxes = s.cap
  · obtain ⟨hcursor, -, -⟩ := advanceCursor_full_values hfull
    rw [hcursor]
    exact ⟨State.numAxes_le_cap hs.params_legal, rfl⟩
  · obtain ⟨hcursor, -, -⟩ := advanceCursor_not_full_values hs.params_legal hin hfull
    rw [hcursor]
    simp only [numAxes] at *
    omega

/-- R31 (c), R132: the counter stays, or counts one more frame, mod 2^32. -/
theorem State.Inv.advanceCursor_byteCount {s : State} (hs : s.Inv) :
    ∃ frames, (advanceCursor s).byteCount.toNat = s.cap * frames % 2 ^ 32 := by
  obtain ⟨frames, hframes⟩ := hs.byteCount_frames
  by_cases hfull : s.cursor.toNat + numAxes = s.cap
  · obtain ⟨-, hcount, -⟩ := advanceCursor_full_values hfull
    exact ⟨frames + 1, by rw [hcount, hframes, Nat.mul_succ, Nat.mod_add_mod]⟩
  · obtain ⟨-, hcount, -⟩ := advanceCursor_not_full_values hs.params_legal hs.cursor_in hfull
    exact ⟨frames, by rw [hcount, hframes]⟩

theorem State.Inv.advanceCursor {s : State} (hs : s.Inv) : (advanceCursor s).Inv := by
  obtain ⟨hin, haligned⟩ := hs.advanceCursor_cursor
  exact {
    params_legal := by rw [advanceCursor_params]; exact hs.params_legal
    frame_wf := by rw [advanceCursor_frame]; exact hs.frame_wf
    frame_within := by rw [advanceCursor_frame, advanceCursor_cap]; exact hs.frame_within
    cursor_in := by rw [advanceCursor_cap]; exact hin
    cursor_aligned := haligned
    id_range := by rw [advanceCursor_curId]; exact hs.id_range
    idle_id := by rw [advanceCursor_pending, advanceCursor_curId]; exact hs.idle_id
    byteCount_frames := by rw [advanceCursor_cap]; exact hs.advanceCursor_byteCount }

theorem State.Inv.absorb {s : State} (hs : s.Inv) (q : QuantizedSample) : (s.absorb q).Inv :=
  (hs.storing q).advanceCursor.sendIfFull

theorem State.Inv.quiet {s : State} (hs : s.Inv) : s.quiet.Inv := { hs with }

theorem State.Inv.takeSample {s : State} (hs : s.Inv) (v : RawSample) : (s.takeSample v).Inv := { hs with }

theorem State.Inv.consume {s : State} (hs : s.Inv) (rest : List Byte) : (s.consume rest).Inv := { hs with }

theorem State.Inv.withEnv {s : State} (hs : s.Inv) (env : Env) : (s.withEnv env).Inv := { hs with }

theorem State.Inv.advance {s : State} (hs : s.Inv) : s.advance.Inv :=
  hs.of_eq s.advance_params s.advance_frame s.advance_cursor s.advance_byteCount
    (.inl ⟨s.advance_pending, s.advance_curId⟩)

/-! ### Instructions and steps -/

/-- What an instruction other than a SAMPLE that completes a block leaves of the block and signals, or what its end of
a transaction leaves; and what a SAMPLE that completes a block leaves: its block absorbed. -/
theorem exec_next_absorb_cases {i : Instr} {s t : State} (h : exec i s = .next t) :
    (t.frame = s.frame ∧ t.cursor = s.cursor ∧ t.byteCount = s.byteCount ∧ t.params = s.params ∧
        t.out.frameFull = false ∧ t.out.txValid = false ∧
        ((t.pending = s.pending ∧ t.curId = s.curId) ∨
          ((i = .txok ∨ ∃ reason, i = .txfail reason) ∧ t.pending = false ∧ t.curId = absentId))) ∨
      ∃ x y z, i = .sample x y z ∧ s.rem ≠ 0 ∧ s.phase = 4 ∧ s.cursor.toNat + numAxes ≤ s.cap ∧
        t = (s.quiet.takeSample ⟨x, y, z⟩).absorb (blockOutput (s.quiet.takeSample ⟨x, y, z⟩)) := by
  rcases exec_next_cases h with
    ⟨hframe, hcursor, hcount, hparams, -, -, hfull, hvalid, htransaction⟩ | ⟨x, y, z, hi, hr, hp, u, hu, ht⟩
  · exact .inl ⟨hframe, hcursor, hcount, hparams, hfull, hvalid, htransaction⟩
  · obtain ⟨hc, rfl⟩ := (storeTriplet_eq_storing_iff _ _ _).mp hu
    exact .inr ⟨x, y, z, hi, hr, hp, hc, ht⟩

theorem State.Inv.exec {s t : State} {i : Instr} (hs : s.Inv) (h : exec i s = .next t) : t.Inv := by
  rcases exec_next_absorb_cases h with
    ⟨hframe, hcursor, hcount, hparams, -, -, htransaction⟩ | ⟨x, y, z, -, -, -, -, rfl⟩
  · exact hs.of_eq hparams hframe hcursor hcount (htransaction.imp id fun ⟨_, _, hid⟩ => hid)
  · exact (hs.quiet.takeSample ⟨x, y, z⟩).absorb _

/-- Settles O45: reset, events, fields and waiting each keep the invariant, and so does the taking in of inputs. -/
theorem stepKeepsInvariant : Obligations.StepKeepsInvariant := by
  intro s t hs h
  obtain ⟨hl, ⟨-, rfl⟩ | ⟨i, u, -, hu, rfl⟩ | ⟨i, rest, u, -, hu, rfl⟩ | ⟨-, rfl⟩⟩ := step_next_cases h
  · exact (State.applyReset_inv hl).advance
  · exact (hs.exec hu).advance
  · exact ((hs.consume rest).exec hu).advance
  · exact hs.quiet.advance

/-- R180, R181: only a SAMPLE could overrun the frame, and under the invariant its triplet fits. -/
theorem State.Inv.exec_isNext {s : State} (hs : s.Inv) (i : Instr) : ∃ t, Machine.exec i s = .next t := by
  cases i with
  | sample x y z =>
    by_cases hr : s.rem = 0
    · exact ⟨_, execSample_of_closed hr⟩
    · by_cases hp : s.phase < 4
      · exact ⟨_, execSample_of_collecting hr hp⟩
      · exact ⟨_, exec_sample_of_fits hr (by omega) hs.cursor_in⟩
  | _ => exact ⟨_, rfl⟩

/-- Settles O46: each thing that a step can run answers a next state. -/
theorem everyInstructionCompletes : Obligations.EveryInstructionCompletes := by
  refine fun s hs => ⟨hs.exec_isNext, ?_⟩
  rw [step, if_pos hs.params_legal]
  split
  case h_1 => exact ⟨_, rfl⟩
  case h_2 i _ =>
    obtain ⟨t, ht⟩ := hs.exec_isNext i
    exact ⟨t.advance, by rw [ht, mapNext_next]⟩
  case h_3 i rest _ =>
    obtain ⟨t, ht⟩ := (hs.consume rest).exec_isNext i
    exact ⟨t.advance, by rw [ht, mapNext_next]⟩
  case h_4 => exact ⟨_, rfl⟩

end Sys2Proof.Machine
end

section
/-! What a step does to the frame, the counter and the transaction (R24, R57, R131, R132, R143), from one account of
the steps without reset. -/

namespace Sys2Proof.Machine

/-! ### One account of the steps without reset -/

/-- The event on the port is a SAMPLE that completes a block (R102). -/
def CompletesBlock (s : State) : Prop :=
  s.port.evValid = true ∧ (∃ x y z, decodeEvent s.port.ev = .sample x y z) ∧ s.rem ≠ 0 ∧ s.phase = 4

/-- The event on the port is a completion (R75). -/
def PresentsCompletion (s : State) : Prop :=
  s.port.evValid = true ∧ (decodeEvent s.port.ev = .txok ∨ ∃ reason, decodeEvent s.port.ev = .txfail reason)

/-- What a step that completes no block leaves: the frame and the counter as they are, nothing signalled or sent, and
the transaction as it is or ended by a completion. -/
structure StoresNothing (s t : State) : Prop where
  frame : t.frame = s.frame
  byteCount : t.byteCount = s.byteCount
  not_full : t.out.frameFull = false
  not_valid : t.out.txValid = false
  pending : t.pending = s.pending ∨ PresentsCompletion s ∧ t.pending = false

/-- A step that leaves the block to itself stores nothing. -/
theorem StoresNothing.of_keeps {s t : State} (hblock : KeepsBlock s t) (hframe : t.frame = s.frame)
    (hout : t.out = .zero) : StoresNothing s t := by
  obtain ⟨-, ⟨-, -, hcount⟩, hpending, -⟩ := hblock
  exact ⟨hframe, hcount, by rw [hout]; rfl, by rw [hout]; rfl, .inl hpending⟩

/-- A step without reset stores nothing, or it absorbs the block that the SAMPLE on the port completes. -/
theorem step_cases_of_no_reset {s t : State} (h : step s = .next t) (hr : s.port.rst = false) :
    StoresNothing s t ∨
      CompletesBlock s ∧ s.cursor.toNat + numAxes ≤ s.cap ∧
        ∃ v q, t = ((s.quiet.takeSample v).absorb q).advance := by
  obtain ⟨-, ⟨hfetch, -⟩ | ⟨i, u, hfetch, hu, rfl⟩ | ⟨i, rest, u, hfetch, hu, rfl⟩ | ⟨-, rfl⟩⟩ := step_next_cases h
  · rw [fetch_eq_reset hfetch] at hr
    cases hr
  · obtain ⟨-, he, rfl⟩ := fetch_eq_event hfetch
    rcases exec_next_absorb_cases hu with
      ⟨hframe, -, hcount, -, hfull, hvalid, htransaction⟩ | ⟨x, y, z, hi, hrem, hp, hc, rfl⟩
    · have hpending : u.pending = s.pending ∨ PresentsCompletion s ∧ u.pending = false :=
        htransaction.imp (fun ⟨hsame, _⟩ => hsame) fun ⟨hi, hended, _⟩ => ⟨⟨he, hi⟩, hended⟩
      exact .inl ⟨u.advance_frame.trans hframe, u.advance_byteCount.trans hcount, u.advance_out ▸ hfull,
        u.advance_out ▸ hvalid, u.advance_pending ▸ hpending⟩
    · exact .inr ⟨⟨he, ⟨x, y, z, hi⟩, hrem, hp⟩, hc, _, _, rfl⟩
  · obtain ⟨-, -, hi, -⟩ := fetch_eq_field hfetch
    obtain ⟨hblock, hout, -, -, -, hframe⟩ := exec_field_next hi hu
    exact .inl (.of_keeps (((s.consume_keepsBlock rest).trans hblock).trans u.advance_keepsBlock)
      (u.advance_frame.trans hframe) (u.advance_out.trans hout))
  · obtain ⟨-, hblock, hout⟩ := quiet_advance_keeps s
    exact .inl (.of_keeps hblock s.quiet.advance_frame hout)

/-- Where the triplet fits, a SAMPLE that completes a block absorbs it. -/
theorem step_of_completesBlock {s : State} (hl : s.params.Legal) (hr : s.port.rst = false) (h : CompletesBlock s)
    (hc : s.cursor.toNat + numAxes ≤ s.cap) :
    ∃ v q, step s = .next ((s.quiet.takeSample v).absorb q).advance := by
  obtain ⟨he, ⟨x, y, z, hsample⟩, hrem, hp⟩ := h
  have hstep := step_of_event hl hr he
  rw [hsample, exec_sample_of_fits hrem hp hc, mapNext_next] at hstep
  exact ⟨_, _, hstep⟩

/-! ### What absorbing a block signals -/

theorem send_frameFull (s : State) : (send s).out.frameFull = s.out.frameFull := by
  rcases send_cases s with ⟨hsend, -⟩ | ⟨hsend, -⟩ <;> rw [hsend]
  rfl

/-- R131: the full signal tells that the cursor reached CAP. -/
theorem State.absorb_frameFull_iff {s : State} (hout : s.out.frameFull = false) (q : QuantizedSample) :
    (s.absorb q).out.frameFull = true ↔ s.cursor.toNat + numAxes = s.cap := by
  by_cases h : s.cursor.toNat + numAxes = s.cap
  · obtain ⟨-, -, hfull⟩ := advanceCursor_full_values (s := s.storing q) h
    simp only [State.absorb_of_full h, send_frameFull, hfull, h]
  · rw [State.absorb_of_not_full h hout, advanceCursor_of_not_full (s := s.storing q) h]
    simp only [State.storing, hout, h, Bool.false_eq_true]

/-- R132: the counter grows by CAP with the full signal, and not without it. -/
theorem State.absorb_byteCount {s : State} (hout : s.out.frameFull = false) (q : QuantizedSample) :
    (s.absorb q).byteCount.toNat =
      (s.byteCount.toNat + if (s.absorb q).out.frameFull = true then s.cap else 0) % 2 ^ 32 := by
  simp only [State.absorb_frameFull_iff hout]
  by_cases h : s.cursor.toNat + numAxes = s.cap
  · obtain ⟨-, hcount⟩ := State.absorb_full_values h q
    rw [if_pos h, hcount]
  · rw [if_neg h, State.absorb_of_not_full h hout, advanceCursor_of_not_full (s := s.storing q) h]
    exact (Nat.mod_eq_of_lt s.byteCount.isLt).symm

/-- R141: the transaction stays and nothing is sent, or it begins: from Idle, on a ready channel, with a full frame. -/
theorem State.absorb_transaction_cases {s : State} (hout : s.out = .zero) (q : QuantizedSample) :
    ((s.absorb q).pending = s.pending ∧ (s.absorb q).out.txValid = false) ∨
      (s.pending = false ∧ s.port.env.txReady = true ∧ (s.absorb q).out.frameFull = true ∧
        (s.absorb q).pending = true ∧ (s.absorb q).out.txValid = true) := by
  have hquiet : s.out.frameFull = false := by rw [hout]; rfl
  by_cases h : s.cursor.toNat + numAxes = s.cap
  · by_cases hdrop : s.pending = true ∨ s.port.env.txReady = false
    · obtain ⟨⟨hpending, -⟩, houtputs⟩ := State.absorb_of_dropped h hdrop q
      exact .inl ⟨hpending, by rw [houtputs, hout]; rfl⟩
    · simp only [not_or, Bool.not_eq_true, Bool.not_eq_false] at hdrop
      obtain ⟨hidle, hready⟩ := hdrop
      have hfull := (State.absorb_frameFull_iff hquiet q).mpr h
      have hbegin := State.absorb_of_begun h hidle hready q
      exact .inr ⟨hidle, hready, hfull, by rw [hbegin]; rfl, by rw [hbegin]; rfl⟩
  · rw [State.absorb_of_not_full h hquiet, advanceCursor_of_not_full (s := s.storing q) h]
    exact .inl ⟨rfl, by simp only [State.storing, hout]; rfl⟩

/-! ### The statements -/

/-- Settles O47: reset, a step that stores nothing, and the cases of SEND when a block is absorbed. -/
theorem oneTransactionAtATime : Obligations.OneTransactionAtATime := by
  intro s t h
  by_cases hr : s.port.rst = true
  · obtain ⟨hl, -⟩ := step_next_cases h
    rw [step_of_rst hl hr] at h
    cases h
    simp [hr, Outputs.zero]
  · rcases step_cases_of_no_reset h (Bool.eq_false_iff.mpr hr) with hstores | ⟨-, -, v, q, rfl⟩
    · obtain ⟨-, -, -, hvalid, hpending⟩ := hstores
      refine ⟨fun hsent => ?_, fun hidle hbegun => ?_, fun hbusy hended => .inr ?_⟩
      · rw [hvalid] at hsent; cases hsent
      · rcases hpending with hsame | ⟨-, hended⟩
        · rw [hsame, hidle] at hbegun; cases hbegun
        · rw [hended] at hbegun; cases hbegun
      · rcases hpending with hsame | ⟨hcompletion, -⟩
        · rw [hsame, hbusy] at hended; cases hended
        · exact hcompletion
    · rw [State.advance_out, State.advance_pending]
      rcases State.absorb_transaction_cases (s := s.quiet.takeSample v) rfl q with
        ⟨hsame, hvalid⟩ | ⟨hidle, hready, hfull, hpending, hvalid⟩
      · rw [hsame, hvalid]
        exact ⟨nofun, fun hidle hbusy => absurd (hidle.symm.trans hbusy) nofun,
          fun hbusy hidle => absurd (hidle.symm.trans hbusy) nofun⟩
      · exact ⟨fun _ => ⟨hidle, hready, hfull, hpending⟩, fun _ _ => hvalid,
          fun _ hended => absurd (hended.symm.trans hpending) nofun⟩

/-- Settles O48: a step that stores nothing leaves the counter and signals nothing; a block is counted with the full
signal (`State.absorb_byteCount`). -/
theorem counterCountsFullFrames : Obligations.CounterCountsFullFrames := by
  intro s t h hr
  rcases step_cases_of_no_reset h hr with hstores | ⟨-, -, v, q, rfl⟩
  · rw [hstores.not_full, hstores.byteCount]
    exact (Nat.mod_eq_of_lt s.byteCount.isLt).symm
  · rw [State.advance_byteCount, State.advance_out]
    exact State.absorb_byteCount (s := s.quiet.takeSample v) rfl q

/-- Settles O49: only a step that completes a block signals full, and then exactly when the cursor reaches CAP. -/
theorem fullSignalOnlyWhenCursorReachesCap : Obligations.FullSignalOnlyWhenCursorReachesCap := by
  intro s t hs h hr
  by_cases hcompletes : CompletesBlock s
  · obtain ⟨v, q, hstep⟩ := step_of_completesBlock hs.params_legal hr hcompletes hs.cursor_in
    obtain rfl := Outcome.next_injective (h.symm.trans hstep)
    obtain ⟨he, hsample, hrem, hp⟩ := hcompletes
    rw [State.advance_out, State.absorb_frameFull_iff rfl]
    exact ⟨fun hc => ⟨he, hsample, hrem, hp, hc⟩, fun ⟨_, _, _, _, hc⟩ => hc⟩
  · rcases step_cases_of_no_reset h hr with hstores | ⟨hcompletes', -⟩
    · rw [hstores.not_full]
      exact ⟨nofun, fun ⟨he, hsample, hrem, hp, _⟩ => absurd ⟨he, hsample, hrem, hp⟩ hcompletes⟩
    · exact absurd hcompletes' hcompletes

/-- Settles O50: only a step that completes a block writes, and only its triplet (`State.absorb_bytes`). -/
theorem onlyBlockCompletionWritesFrame : Obligations.OnlyBlockCompletionWritesFrame := by
  intro s t hwf h hr a ha
  rcases step_cases_of_no_reset h hr with hstores | ⟨⟨he, hsample, hrem, hp⟩, hc, v, q, rfl⟩
  · exact absurd (congrArg (Memory.read · a) hstores.frame) ha
  · obtain ⟨-, -, hother⟩ := State.absorb_bytes (s := s.quiet.takeSample v) hwf hc q
    rw [State.advance_frame] at ha
    have hplace := mt (hother a) ha
    simp only [not_or, not_lt, not_le] at hplace
    exact ⟨he, hsample, hrem, hp, hplace⟩

end Sys2Proof.Machine
end

section
/-! Changes of state that APPEND and SEND do not see (R130, R131, R141): the accumulator's width, the batch bookkeeping,
and the inputs but SEND's levels. From them: what the block never reads (R7, R21, R36, R108). -/

namespace Sys2Proof.Machine

/-! ### Changes that APPEND and SEND do not see -/

/-- `F` changes nothing that APPEND and SEND read or write: it is blind to their writes (so it leaves those six fields
alone), and keeps CAP and SEND's levels. -/
structure FrameBlind (F : State → State) : Prop where
  writes : ∀ s frame cursor byteCount pending curId out,
    F { s with
        frame := frame, cursor := cursor, byteCount := byteCount, pending := pending, curId := curId, out := out } =
      { F s with
        frame := frame, cursor := cursor, byteCount := byteCount, pending := pending, curId := curId, out := out }
  cap : ∀ s, (F s).cap = s.cap
  levels : ∀ s, (F s).port.env.txReady = s.port.env.txReady ∧ (F s).port.env.txnIdIn = s.port.env.txnIdIn

section
variable {F : State → State} (hF : FrameBlind F)
include hF

/-- The six fields as `F` leaves them. -/
theorem FrameBlind.eq_self (s : State) :
    F s = { F s with
      frame := s.frame, cursor := s.cursor, byteCount := s.byteCount, pending := s.pending, curId := s.curId
      out := s.out } :=
  hF.writes s s.frame s.cursor s.byteCount s.pending s.curId s.out

theorem FrameBlind.frame (s : State) : (F s).frame = s.frame := by rw [hF.eq_self s]
theorem FrameBlind.cursor (s : State) : (F s).cursor = s.cursor := by rw [hF.eq_self s]
theorem FrameBlind.byteCount (s : State) : (F s).byteCount = s.byteCount := by rw [hF.eq_self s]
theorem FrameBlind.pending (s : State) : (F s).pending = s.pending := by rw [hF.eq_self s]
theorem FrameBlind.out (s : State) : (F s).out = s.out := by rw [hF.eq_self s]
theorem FrameBlind.curId (s : State) : (F s).curId = s.curId := by rw [hF.eq_self s]

theorem FrameBlind.storing (q : QuantizedSample) (s : State) : (F s).storing q = F (s.storing q) := by
  have hwrite := hF.writes s (s.storing q).frame s.cursor s.byteCount s.pending s.curId s.out
  rw [show F (s.storing q) = _ from hwrite, State.storing, hF.frame, hF.cursor, hF.eq_self s]
  rfl

theorem FrameBlind.advanceCursor (s : State) : advanceCursor (F s) = F (advanceCursor s) := by
  by_cases h : s.cursor.toNat + numAxes = s.cap
  · have hwrite := hF.writes s s.frame 0 (s.byteCount + BitVec.ofNat 32 s.cap) s.pending s.curId
      { s.out with frameFull := true }
    rw [advanceCursor_of_full h, advanceCursor_of_full (by rw [hF.cursor, hF.cap]; exact h)]
    refine Eq.trans ?_ hwrite.symm
    simp only [hF.frame, hF.byteCount, hF.cap, hF.pending, hF.curId, hF.out]
  · have hwrite := hF.writes s s.frame (BitVec.ofNat 8 (s.cursor.toNat + numAxes)) s.byteCount s.pending s.curId s.out
    rw [advanceCursor_of_not_full h, advanceCursor_of_not_full (by rw [hF.cursor, hF.cap]; exact h)]
    refine Eq.trans ?_ hwrite.symm
    simp only [hF.frame, hF.cursor, hF.byteCount, hF.pending, hF.curId, hF.out]

theorem FrameBlind.message (s : State) : message (F s) = message s := by
  obtain ⟨-, hid⟩ := hF.levels s
  simp only [Machine.message, frameBytes, hF.cap, hF.frame, hid]

theorem FrameBlind.beginTransaction (s : State) : beginTransaction (F s) = F (beginTransaction s) := by
  obtain ⟨-, hid⟩ := hF.levels s
  have hwrite := hF.writes s s.frame s.cursor s.byteCount true (latchedId s.port.env.txnIdIn)
    { s.out with txValid := true, txMsg := Machine.message s }
  refine Eq.trans ?_ hwrite.symm
  simp only [Machine.beginTransaction, hF.frame, hF.cursor, hF.byteCount, hF.out, hF.message, hid]

theorem FrameBlind.send (s : State) : send (F s) = F (send s) := by
  obtain ⟨hready, -⟩ := hF.levels s
  simp only [Machine.send, hF.pending, hready, hF.beginTransaction]
  split
  · rfl
  · split <;> rfl

theorem FrameBlind.absorb (q : QuantizedSample) (s : State) : (F s).absorb q = F (s.absorb q) := by
  simp only [State.absorb, sendIfFull, hF.storing, hF.advanceCursor, hF.out, hF.send]
  split <;> rfl

theorem FrameBlind.completeBlock {s : State} (hblock : blockOutput (F s) = blockOutput s) :
    completeBlock (F s) = mapNext F (completeBlock s) := by
  by_cases hc : s.cursor.toNat + numAxes ≤ s.cap
  · rw [completeBlock_of_fits hc, completeBlock_of_fits (by rw [hF.cursor, hF.cap]; exact hc), hblock, hF.absorb,
      mapNext_next]
  · rw [completeBlock_of_overrun hc, completeBlock_of_overrun (by rw [hF.cursor, hF.cap]; exact hc)]
    rfl

end

/-- `F` also commutes with a SAMPLE's own bookkeeping and leaves the filter's output alone: then it commutes with
SAMPLE. -/
theorem execSample_of_frameBlind {F : State → State} (hF : FrameBlind F) (hquiet : ∀ s, (F s).quiet = F s.quiet)
    (htake : ∀ v s, (F s).takeSample v = F (s.takeSample v)) (hrem : ∀ s, (F s).rem = s.rem)
    (hphase : ∀ s, (F s).phase = s.phase) {x y z : Half} {s : State}
    (hblock : blockOutput (F (s.quiet.takeSample ⟨x, y, z⟩)) = blockOutput (s.quiet.takeSample ⟨x, y, z⟩)) :
    execSample x y z (F s) = mapNext F (execSample x y z s) := by
  simp only [execSample, hrem, hphase, hquiet, htake, hF.completeBlock hblock]
  split
  · rfl
  · split <;> rfl

/-! ### ACC_W (R7, R108) -/

/-- `s` on a block of another ACC_W. -/
def State.withAccW (width : Nat) (s : State) : State := { s with params := { s.params with accW := width } }

theorem withAccW_frameBlind (width : Nat) : FrameBlind (State.withAccW width) :=
  ⟨fun _ _ _ _ _ _ _ => rfl, fun _ => rfl, fun _ => ⟨rfl, rfl⟩⟩

/-- Every legal width holds the filter's sums, so the block's output is the same at each. -/
theorem blockOutput_withAccW {s : State} {width : Nat} (hs : 17 ≤ s.params.accW) (hw : 17 ≤ width) :
    blockOutput (s.withAccW width) = blockOutput s :=
  (quantize_fir5 hw s.params.shift s.win).trans (quantize_fir5 hs s.params.shift s.win).symm

/-- Settles O30: only a SAMPLE's filter looks at the width. -/
theorem accumulatorWidthUnobservable : Obligations.AccumulatorWidthUnobservable := by
  intro i s width hs hw
  change exec i (s.withAccW width) = mapNext (State.withAccW width) (exec i s)
  cases i with
  | sample x y z =>
    exact execSample_of_frameBlind (withAccW_frameBlind width) (fun _ => rfl) (fun _ _ => rfl) (fun _ => rfl)
      (fun _ => rfl) (blockOutput_withAccW (s := s.quiet.takeSample ⟨x, y, z⟩) hs hw)
  | _ => rfl

/-! ### The timestamp and the failure reason (R36, R145) -/

/-- Settles O51: the timestamp is none of SEND's two levels, and TXFAIL ignores its reason. -/
theorem timestampAndReasonUnobservable : Obligations.TimestampAndReasonUnobservable :=
  ⟨fun i s ts => exec_mapPort (f := fun p => { p with env := { p.env with tsIn := ts } }) (fun _ => ⟨rfl, rfl⟩) i s,
    fun reason reason' s => (exec_txfail reason s).trans (exec_txfail reason' s).symm⟩

/-! ### Window registers that hold no sample of the block (R21, R32) -/

/-- `s` with another window. -/
def State.withWin (w : Window) (s : State) : State := { s with win := w }

theorem agreeOnCollected_iff (s t : State) :
    AgreeOnCollected s t ↔ ∃ w, t = s.withWin w ∧ ∀ p, p < s.phase → w.get p = s.win.get p := by
  constructor
  · rintro ⟨heq, hwin⟩
    exact ⟨t.win, heq, hwin⟩
  · rintro ⟨w, rfl, hwin⟩
    exact ⟨rfl, hwin⟩

theorem AgreeOnCollected.refl (s : State) : AgreeOnCollected s s := ⟨rfl, fun _ _ => rfl⟩

theorem lt_nextPhase {p q : Fin 5} (hp : p < 4) (h : q < nextPhase p) : q < p ∨ q = p := by
  revert p q
  decide

/-- With one more sample taken, the states agree on one more register. -/
theorem AgreeOnCollected.takeSample {s t : State} (h : AgreeOnCollected s t) (hp : s.phase < 4) (v : RawSample) :
    AgreeOnCollected (s.takeSample v) (t.takeSample v) := by
  obtain ⟨w, rfl, hwin⟩ := (agreeOnCollected_iff s t).mp h
  refine ⟨rfl, fun q hq => ?_⟩
  change (w.set s.phase v).get q = (s.win.set s.phase v).get q
  by_cases hqp : q = s.phase
  · rw [hqp, Window.get_set_same, Window.get_set_same]
  · rw [Window.get_set_other _ _ _ _ hqp, Window.get_set_other _ _ _ _ hqp,
      hwin q ((lt_nextPhase hp hq).resolve_right hqp)]

/-- The fifth sample fills the last register in which they could differ. -/
theorem AgreeOnCollected.takeSample_of_last {s t : State} (h : AgreeOnCollected s t) (hp : s.phase = 4)
    (v : RawSample) : t.takeSample v = s.takeSample v := by
  obtain ⟨w, rfl, hwin⟩ := (agreeOnCollected_iff s t).mp h
  have hset : w.set s.phase v = s.win.set s.phase v := by
    refine Window.ext_get _ _ fun q => ?_
    by_cases hqp : q = s.phase
    · rw [hqp, Window.get_set_same, Window.get_set_same]
    · rw [Window.get_set_other _ _ _ _ hqp, Window.get_set_other _ _ _ _ hqp, hwin q (by omega)]
  change { s.takeSample v with win := w.set s.phase v } = s.takeSample v
  rw [hset]
  rfl

theorem AgreeOnCollected.quiet {s t : State} (h : AgreeOnCollected s t) : AgreeOnCollected s.quiet t.quiet := by
  obtain ⟨w, rfl, hwin⟩ := (agreeOnCollected_iff s t).mp h
  exact ⟨rfl, hwin⟩

theorem AgreeOnCollected.consume {s t : State} (h : AgreeOnCollected s t) (rest : List Byte) :
    AgreeOnCollected (s.consume rest) (t.consume rest) := by
  obtain ⟨w, rfl, hwin⟩ := (agreeOnCollected_iff s t).mp h
  exact ⟨rfl, hwin⟩

theorem State.advance_withWin (w : Window) (s : State) : (s.withWin w).advance = s.advance.withWin w := by
  have hupcoming : (s.withWin w).upcoming = s.upcoming := rfl
  rw [State.advance, State.advance, hupcoming]
  split <;> rfl

theorem AgreeOnCollected.advance {s t : State} (h : AgreeOnCollected s t) : AgreeOnCollected s.advance t.advance := by
  obtain ⟨w, rfl, hwin⟩ := (agreeOnCollected_iff s t).mp h
  rw [State.advance_withWin, agreeOnCollected_iff]
  exact ⟨w, rfl, by rwa [State.advance_phase, State.advance_win]⟩

/-- A SAMPLE reads the window only where it completes a block, and then the states no longer differ. -/
theorem AgreeOnCollected.execSample {s t s' : State} {x y z : Half} (h : AgreeOnCollected s t)
    (hexec : execSample x y z s = .next s') : ∃ t', execSample x y z t = .next t' ∧ AgreeOnCollected s' t' := by
  have hfields : t.rem = s.rem ∧ t.phase = s.phase := by
    obtain ⟨w, rfl, -⟩ := (agreeOnCollected_iff s t).mp h
    exact ⟨rfl, rfl⟩
  obtain ⟨hrem, hphase⟩ := hfields
  by_cases hr : s.rem = 0
  · rw [execSample_of_closed hr] at hexec
    cases hexec
    exact ⟨_, execSample_of_closed (hrem.trans hr), h.quiet⟩
  · by_cases hp : s.phase < 4
    · rw [execSample_of_collecting hr hp] at hexec
      cases hexec
      exact ⟨_, execSample_of_collecting (hrem ▸ hr) (hphase ▸ hp), h.quiet.takeSample hp _⟩
    · have hp4 : s.phase = 4 := by omega
      rw [execSample_of_last hr hp4] at hexec
      refine ⟨s', ?_, AgreeOnCollected.refl s'⟩
      rw [execSample_of_last (hrem ▸ hr) (hphase.trans hp4), h.quiet.takeSample_of_last hp4, hexec]

theorem AgreeOnCollected.exec {s t s' : State} {i : Instr} (h : AgreeOnCollected s t) (hexec : exec i s = .next s') :
    ∃ t', exec i t = .next t' ∧ AgreeOnCollected s' t' := by
  cases i with
  | sample x y z => exact h.execSample hexec
  | batch count =>
    obtain ⟨w, rfl, -⟩ := (agreeOnCollected_iff s t).mp h
    cases hexec
    exact ⟨_, rfl, rfl, fun p hp => absurd hp (Fin.not_lt_zero p)⟩
  | _ =>
    obtain ⟨w, rfl, hwin⟩ := (agreeOnCollected_iff s t).mp h
    cases hexec
    exact ⟨_, rfl, rfl, hwin⟩

/-- Settles O52: what a step finds does not depend on the window, and what it then runs keeps the agreement. -/
theorem uncollectedWindowUnobservable : Obligations.UncollectedWindowUnobservable := by
  intro s t s' h hstep
  have hfetch : fetch t = fetch s ∧ t.params = s.params ∧ t.applyReset = s.applyReset := by
    obtain ⟨w, rfl, -⟩ := (agreeOnCollected_iff s t).mp h
    exact ⟨rfl, rfl, rfl⟩
  obtain ⟨hfetch, hparams, hreset⟩ := hfetch
  obtain ⟨hl, hcase⟩ := step_next_cases hstep
  rw [step, if_pos (hparams ▸ hl), hfetch]
  obtain ⟨hf, rfl⟩ | ⟨i, u, hf, hu, rfl⟩ | ⟨i, rest, u, hf, hu, rfl⟩ | ⟨hf, rfl⟩ := hcase <;> rw [hf]
  · exact ⟨_, rfl, hreset ▸ AgreeOnCollected.refl _⟩
  · obtain ⟨v, hv, huv⟩ := h.exec hu
    exact ⟨v.advance, congrArg (mapNext State.advance) hv, huv.advance⟩
  · obtain ⟨v, hv, huv⟩ := (h.consume rest).exec hu
    exact ⟨v.advance, congrArg (mapNext State.advance) hv, huv.advance⟩
  · exact ⟨_, rfl, h.quiet.advance⟩

end Sys2Proof.Machine
end

section
/-! A run of decoded events as a run of the machine (R12, R35, R36): an instruction reads of the inputs SEND's levels
alone, so it runs alike whatever event is presented and whatever inputs are to come. -/

namespace Sys2Proof.Machine

/-! ### Runs, one event at a time -/

theorem runEvents_cons_of_next {env : Env} {i : Instr} {s u : State} (h : exec i (s.withEnv env) = .next u)
    (rest : List (Env × Instr)) :
    runEvents ((env, i) :: rest) s = (runEvents rest u).map fun r => (r.1, u.out :: r.2) := by
  rw [runEvents, h]

theorem runEvents_cons_inv {env : Env} {i : Instr} {rest : List (Env × Instr)} {s t : State} {outs : List Outputs}
    (h : runEvents ((env, i) :: rest) s = some (t, outs)) :
    ∃ u outs', exec i (s.withEnv env) = .next u ∧ runEvents rest u = some (t, outs') ∧ outs = u.out :: outs' := by
  rw [runEvents] at h
  split at h
  case h_1 u hexec =>
    obtain ⟨⟨t', outs'⟩, hrest, hr⟩ := Option.map_eq_some_iff.mp h
    cases hr
    exact ⟨u, outs', hexec, hrest, rfl⟩
  all_goals cases h

/-! ### The inputs -/

/-- `s` with the event `w` on the port and `cycles` to come, under the levels of `s`. -/
def State.withInputs (w : EventWord) (cycles : List Cycle) (s : State) : State :=
  { s with port := { rst := false, evValid := true, ev := w, env := s.port.env }, upcoming := cycles }

theorem withInputs_frameBlind (w : EventWord) (cycles : List Cycle) : FrameBlind (State.withInputs w cycles) :=
  ⟨fun _ _ _ _ _ _ _ => rfl, fun _ => rfl, fun _ => ⟨rfl, rfl⟩⟩

theorem exec_withInputs (w : EventWord) (cycles : List Cycle) (i : Instr) (s : State) :
    exec i (s.withInputs w cycles) = mapNext (State.withInputs w cycles) (exec i s) := by
  cases i with
  | sample x y z =>
    exact execSample_of_frameBlind (withInputs_frameBlind w cycles) (fun _ => rfl) (fun _ _ => rfl) (fun _ => rfl)
      (fun _ => rfl) rfl
  | _ => rfl

/-- No instruction changes the parameters (R33). -/
theorem exec_params {i : Instr} {s t : State} (h : exec i s = .next t) : t.params = s.params := by
  rcases exec_next_absorb_cases h with ⟨-, -, -, hparams, -⟩ | ⟨x, y, z, -, -, -, -, rfl⟩
  · exact hparams
  · rw [State.absorb_params]
    rfl

/-- With an event as the next cycle, the taking in of inputs presents it. -/
theorem State.advance_eventCycle {s : State} {env : Env} {w : EventWord} {cycles : List Cycle}
    (h : s.upcoming = eventCycle env w :: cycles) : s.advance = (s.withEnv env).withInputs w cycles := by
  rw [State.advance, h]
  simp only [eventCycle, List.append_nil]
  rfl

theorem State.advance_of_no_inputs {s : State} (h : s.upcoming = []) :
    s.advance = { s with port := .quiet s.port.env, upcoming := [] } := by
  rw [State.advance, h]

theorem step_withInputs {s : State} (hl : s.params.Legal) (w : EventWord) (cycles : List Cycle) :
    step (s.withInputs w cycles) =
      mapNext (State.advance ∘ State.withInputs w cycles) (exec (decodeEvent w) s) := by
  rw [← mapNext_mapNext, ← exec_withInputs]
  exact step_of_event (s := s.withInputs w cycles) hl rfl rfl

/-- `s` with `events` to come, one a cycle, and anything on the port. -/
def State.withEvents (port : Port) (events : List (Env × EventWord)) (s : State) : State :=
  { s with port := port, upcoming := events.map fun e => eventCycle e.1 e.2 }

/-- The machine that takes in the first of the events and then makes one step for each reaches what their run reaches,
but for the ports. -/
theorem runSteps_withEvents (events : List (Env × EventWord)) {s t : State} {outs : List Outputs} (port : Port)
    (hl : s.params.Legal) (hrun : runEvents (events.map fun e => (e.1, decodeEvent e.2)) s = some (t, outs)) :
    ∃ t' : State, runSteps events.length (s.withEvents port events).advance = .next t' ∧
      t' = { t with port := t'.port, upcoming := [] } := by
  induction events generalizing s outs port with
  | nil =>
    cases hrun
    refine ⟨_, rfl, ?_⟩
    rw [State.advance_of_no_inputs rfl]
    rfl
  | cons e events ih =>
    obtain ⟨env, w⟩ := e
    obtain ⟨u, outs', hexec, hrest, -⟩ := runEvents_cons_inv hrun
    have hadvance : (s.withEvents port ((env, w) :: events)).advance =
        (s.withEnv env).withInputs w (events.map fun e => eventCycle e.1 e.2) :=
      State.advance_eventCycle rfl
    have hstep := step_withInputs (s := s.withEnv env) hl w (events.map fun e => eventCycle e.1 e.2)
    rw [← hadvance, hexec, mapNext_next] at hstep
    have hlegal : u.params.Legal := by
      rw [exec_params hexec]
      exact hl
    obtain ⟨t', hsteps, ht'⟩ := ih (u.withInputs w []).port hlegal hrest
    exact ⟨t', (runSteps_succ hstep).trans hsteps, ht'⟩

/-- Settles O56: the first step finds nothing and takes in the first cycle; from there each step runs an event
(`runSteps_events`). -/
theorem eventRunsAreMachineRuns : Obligations.EventRunsAreMachineRuns := by
  intro s t events outs hl hr he hstream hupcoming hrun
  have hwait : fetch s = .wait := by
    refine fetch_of_no_field hr he fun i rest hd => ?_
    rw [hstream, decodeField_nil] at hd
    cases hd
  have hevents : s.quiet.withEvents s.port events = s.quiet := by
    rw [State.withEvents, ← hupcoming]
    rfl
  obtain ⟨t', hsteps, ht'⟩ := runSteps_withEvents events (s := s.quiet) s.port hl hrun
  rw [hevents] at hsteps
  exact ⟨t', (runSteps_succ (step_of_wait hl hwait)).trans hsteps, ht'⟩

end Sys2Proof.Machine
end

section
/-! Blocks of samples (R102, R103, R109 to R111, R133): a run of samples from the start of a block, cut into blocks of
five, against the effect of each block. -/

namespace Sys2Proof.Machine

/-! ### Samples that complete no block -/

/-- `s` with the samples collected, each under its levels, into a block that they do not complete. -/
def State.collect (samples : List (Env × RawSample)) (s : State) : State :=
  samples.foldl (fun u e => (u.withEnv e.1).quiet.takeSample e.2) s

/-- `s` with other batch bookkeeping. -/
def State.withBatch (w : Window) (p : Fin 5) (r : Word) (s : State) : State := { s with win := w, phase := p, rem := r }

theorem withBatch_frameBlind (w : Window) (p : Fin 5) (r : Word) : FrameBlind (State.withBatch w p r) :=
  ⟨fun _ _ _ _ _ _ _ => rfl, fun _ => rfl, fun _ => ⟨rfl, rfl⟩⟩

/-- A sample that leaves its block incomplete: what it does, and that the count and the place follow. -/
theorem exec_sample_collects {s : State} (hp : s.phase.val < 4) (hr : 0 < s.rem.toNat) (env : Env) (v : RawSample) :
    exec (.sample v.x v.y v.z) (s.withEnv env) = .next ((s.withEnv env).quiet.takeSample v) ∧
      ((s.withEnv env).quiet.takeSample v).phase.val = s.phase.val + 1 ∧
      ((s.withEnv env).quiet.takeSample v).rem.toNat = s.rem.toNat - 1 := by
  have hrem : s.rem ≠ 0 := fun hzero => absurd (hzero ▸ hr) (by decide)
  exact ⟨execSample_of_collecting hrem hp, nextPhase_val hp, toNat_sub_one hrem⟩

/-- Each of the samples is collected, and no step of theirs gives an output. -/
theorem runEvents_collect (samples : List (Env × RawSample)) (rest : List (Env × Instr)) {s : State}
    (hp : s.phase.val + samples.length ≤ 4) (hr : samples.length ≤ s.rem.toNat) :
    runEvents (samples.map sampleEvent ++ rest) s =
      (runEvents rest (s.collect samples)).map fun r => (r.1, samples.map (fun _ => Outputs.zero) ++ r.2) := by
  induction samples generalizing s with
  | nil => simp [State.collect]
  | cons e samples ih =>
    obtain ⟨env, v⟩ := e
    rw [List.length_cons] at hp hr
    obtain ⟨hexec, hphase, hrem⟩ := exec_sample_collects (s := s) (by omega) (by omega) env v
    rw [List.map_cons, List.cons_append, sampleEvent, runEvents_cons_of_next hexec, ih (by omega) (by omega),
      Option.map_map]
    rfl

/-- Equal but for the batch bookkeeping, the levels and the outputs: what a run of samples and the run of their blocks
keep in common. -/
def SameButBatch (u t : State) : Prop :=
  t = { u with win := t.win, phase := t.phase, rem := t.rem, out := t.out, port := { u.port with env := t.port.env } }

theorem SameButBatch.refl (s : State) : SameButBatch s s := rfl

theorem SameButBatch.quiet_withEnv {u t : State} (h : SameButBatch u t) (env : Env) :
    (t.withEnv env).quiet = ((u.withEnv env).quiet).withBatch t.win t.phase t.rem := by
  rw [h]
  rfl

theorem SameButBatch.sameProduct {u t : State} (h : SameButBatch u t) : SameProduct u t := by
  rw [h]
  exact ⟨⟨fun _ => rfl, rfl, rfl⟩, rfl, rfl⟩

theorem SameButBatch.takeSample {u t : State} (h : SameButBatch u t) (env : Env) (v : RawSample) :
    SameButBatch u ((t.withEnv env).quiet.takeSample v) := by
  rw [h]
  rfl

theorem SameButBatch.withBatch {u t : State} (h : SameButBatch u t) (w : Window) (p : Fin 5) (r : Word) :
    SameButBatch u (t.withBatch w p r) := by
  rw [h]
  rfl

theorem collect_values (samples : List (Env × RawSample)) {u s : State} (hsame : SameButBatch u s)
    (hp : s.phase.val + samples.length ≤ 4) (hr : samples.length ≤ s.rem.toNat) :
    SameButBatch u (s.collect samples) ∧ (s.collect samples).phase.val = s.phase.val + samples.length ∧
      (s.collect samples).rem.toNat = s.rem.toNat - samples.length := by
  induction samples generalizing s with
  | nil => exact ⟨hsame, rfl, rfl⟩
  | cons e samples ih =>
    obtain ⟨env, v⟩ := e
    rw [List.length_cons] at hp hr ⊢
    obtain ⟨-, hphase, hrem⟩ := exec_sample_collects (s := s) (by omega) (by omega) env v
    obtain ⟨hsame', hphase', hrem'⟩ := ih (hsame.takeSample env v) (by omega) (by omega)
    exact ⟨hsame', by rw [hphase] at hphase'; exact hphase'.trans (by omega),
      by rw [hrem] at hrem'; exact hrem'.trans (by omega)⟩

/-! ### A block of five -/

theorem blockEffect_of_fits {s : State} (h : s.cursor.toNat + numAxes ≤ s.cap) (env : Env) (block : Window) :
    blockEffect env block s =
      some ((s.withEnv env).quiet.absorb (quantize s.params.shift (fir5 s.params.accW block))) := by
  rw [blockEffect, append_of_fits (s := (s.withEnv env).quiet) h]
  rfl

/-- Four samples from the start of a block stand in its first four entries. -/
theorem collect_four {s : State} (hp : s.phase = 0) (a b c d : Env × RawSample) :
    s.collect [a, b, c, d] =
      (s.withEnv d.1).quiet.withBatch { s.win with s0 := a.2, s1 := b.2, s2 := c.2, s3 := d.2 } 4 (s.rem - 4) := by
  have hrem : s.rem - 4 = s.rem - 1 - 1 - 1 - 1 := by bv_omega
  rw [hrem]
  obtain ⟨params, win, phase, rem, frame, cursor, byteCount, pending, curId, out, port, upcoming, rx⟩ := s
  obtain rfl : phase = 0 := hp
  rfl

/-- The fifth sample completes the block: it does what the block does, beside the batch bookkeeping. -/
theorem exec_sample_after_four {s : State} (hp : s.phase = 0) (hr : 5 ≤ s.rem.toNat)
    (hc : s.cursor.toNat + numAxes ≤ s.cap) (a b c d e : Env × RawSample) {t : State}
    (ht : blockEffect e.1 ⟨a.2, b.2, c.2, d.2, e.2⟩ s = some t) :
    exec (.sample e.2.x e.2.y e.2.z) ((s.collect [a, b, c, d]).withEnv e.1) =
      .next (t.withBatch ⟨a.2, b.2, c.2, d.2, e.2⟩ 0 (s.rem - 5)) := by
  have hrem : s.rem - 4 ≠ 0 ∧ s.rem - 4 - 1 = s.rem - 5 := by
    constructor <;> bv_omega
  obtain ⟨hopen, hrem⟩ := hrem
  rw [blockEffect_of_fits hc] at ht
  obtain rfl := Option.some.inj ht
  rw [collect_four hp, ← (withBatch_frameBlind _ _ _).absorb, ← hrem]
  refine Eq.trans (exec_sample_of_fits ?_ ?_ ?_) ?_
  · exact hopen
  · rfl
  · exact hc
  · rfl

/-- A run of five samples from the start of a block: the block's effect in the fifth step, whose outputs are the
block's, and no output in the first four. -/
theorem runEvents_five {s t : State} (hp : s.phase = 0) (hr : 5 ≤ s.rem.toNat)
    (hc : s.cursor.toNat + numAxes ≤ s.cap) (a b c d e : Env × RawSample)
    (ht : blockEffect e.1 ⟨a.2, b.2, c.2, d.2, e.2⟩ s = some t) (rest : List (Env × Instr)) :
    runEvents ([a, b, c, d, e].map sampleEvent ++ rest) s =
      (runEvents rest (t.withBatch ⟨a.2, b.2, c.2, d.2, e.2⟩ 0 (s.rem - 5))).map fun r =>
        (r.1, List.replicate 4 .zero ++ t.out :: r.2) := by
  have hcollect := runEvents_collect [a, b, c, d] (sampleEvent e :: rest) (s := s) (by rw [hp]; exact le_rfl)
    (Nat.le_of_succ_le hr)
  have hfifth := runEvents_cons_of_next (exec_sample_after_four hp hr hc a b c d e ht) rest
  rw [sampleEvent, hfifth, Option.map_map] at hcollect
  exact hcollect

end Sys2Proof.Machine
end

section
/-! The statements on runs of samples. -/

namespace Sys2Proof.Machine

theorem toNat_sub_five {r : Word} (h : 5 ≤ r.toNat) : (r - 5).toNat = r.toNat - 5 := by
  bv_omega

/-- Settles O53: the five are one block, and its effect on the frame is that of its triplet (`State.absorb_bytes`). -/
theorem fiveSamplesStoreTheirTriplet : Obligations.FiveSamplesStoreTheirTriplet := by
  intro s ea eb ec ed ee a b c d e hs hp hr
  obtain ⟨-, -, hacc, -⟩ := hs.params_legal
  have hblock := blockEffect_of_fits hs.cursor_in ee ⟨a, b, c, d, e⟩
  rw [quantize_fir5 hacc] at hblock
  have hrun := runEvents_five hp hr hs.cursor_in (ea, a) (eb, b) (ec, c) (ed, d) (ee, e) hblock []
  obtain ⟨-, hholds, hother⟩ := State.absorb_bytes (s := (s.withEnv ee).quiet) hs.frame_wf hs.cursor_in _
  exact ⟨_, _, hrun, hholds, hother, rfl, toNat_sub_five hr⟩

/-! ### The frame length law (R133) -/

/-- A block's effect keeps the invariant, and so does the batch bookkeeping beside it. -/
theorem State.Inv.blockEffect {s t : State} (hs : s.Inv) {env : Env} {block : Window}
    (ht : blockEffect env block s = some t) (w : Window) (p : Fin 5) (r : Word) : (t.withBatch w p r).Inv := by
  rw [blockEffect_of_fits hs.cursor_in] at ht
  obtain rfl := Option.some.inj ht
  exact { (hs.withEnv env).quiet.absorb _ with }

theorem exists_five_append {α : Type} {l : List α} (h : 5 ≤ l.length) :
    ∃ a b c d e rest, l = [a, b, c, d, e] ++ rest := by
  match l, h with
  | a :: b :: c :: d :: e :: rest, _ => exact ⟨a, b, c, d, e, rest, rfl⟩

/-- A block that takes the cursor to CAP. -/
theorem blockEffect_full_values {s t : State} {env : Env} {block : Window}
    (h : s.cursor.toNat + numAxes = s.cap) (ht : blockEffect env block s = some t) :
    t.cursor = 0 ∧ t.byteCount.toNat = (s.byteCount.toNat + s.cap) % 2 ^ 32 ∧ t.out.frameFull = true := by
  rw [blockEffect_of_fits h.le] at ht
  obtain rfl := Option.some.inj ht
  obtain ⟨hcursor, hcount⟩ := State.absorb_full_values (s := (s.withEnv env).quiet) h
    (quantize s.params.shift (fir5 s.params.accW block))
  exact ⟨hcursor, hcount, (State.absorb_frameFull_iff rfl _).mpr h⟩

/-- A block that does not. -/
theorem blockEffect_not_full_values {s t : State} {env : Env} {block : Window} (hl : s.params.Legal)
    (h : s.cursor.toNat + numAxes < s.cap) (ht : blockEffect env block s = some t) :
    t.cursor.toNat = s.cursor.toNat + numAxes ∧ t.byteCount = s.byteCount ∧ t.cap = s.cap ∧ t.out = .zero := by
  rw [blockEffect_of_fits h.le] at ht
  obtain rfl := Option.some.inj ht
  obtain ⟨hcursor, hcount, -, hout⟩ := State.absorb_not_full_values (s := (s.withEnv env).quiet) hl h rfl
    (quantize s.params.shift (fir5 s.params.accW block))
  exact ⟨hcursor, hcount, State.absorb_cap _ _, hout⟩

/-- The first five of a run of samples are a block; the rest runs from what it leaves, which meets the invariant. -/
theorem runEvents_first_block {s : State} {samples : List (Env × RawSample)} (hs : s.Inv) (hp : s.phase = 0)
    (hlen : 5 ≤ samples.length) (hr : samples.length ≤ s.rem.toNat) :
    ∃ (env : Env) (block : Window) (t : State) (rest : List (Env × RawSample)),
      blockEffect env block s = some t ∧ (t.withBatch block 0 (s.rem - 5)).Inv ∧
      rest.length = samples.length - 5 ∧ rest.length ≤ (s.rem - 5).toNat ∧
      runEvents (samples.map sampleEvent) s =
        (runEvents (rest.map sampleEvent) (t.withBatch block 0 (s.rem - 5))).map fun r =>
          (r.1, List.replicate 4 .zero ++ t.out :: r.2) := by
  obtain ⟨a, b, c, d, e, rest, rfl⟩ := exists_five_append hlen
  have hcount : ([a, b, c, d, e] ++ rest).length = rest.length + 5 := rfl
  have hrem : 5 ≤ s.rem.toNat := hlen.trans hr
  obtain ⟨t, ht⟩ : ∃ t, blockEffect e.1 ⟨a.2, b.2, c.2, d.2, e.2⟩ s = some t :=
    ⟨_, blockEffect_of_fits hs.cursor_in _ _⟩
  refine ⟨e.1, _, t, rest, ht, hs.blockEffect ht _ _ _, by omega, by rw [toNat_sub_five hrem]; omega, ?_⟩
  rw [List.map_append]
  exact runEvents_five hp hrem hs.cursor_in a b c d e ht (rest.map sampleEvent)

/-- Blocks of samples that end at CAP, the last one `blocks` after the first: the full signal comes in the last of
their steps and in no other. -/
theorem runEvents_blocks_to_cap (blocks : Nat) {s : State} {samples : List (Env × RawSample)} (hs : s.Inv)
    (hp : s.phase = 0) (hlen : samples.length = 5 * (blocks + 1)) (hr : samples.length ≤ s.rem.toNat)
    (hcap : s.cursor.toNat + numAxes * (blocks + 1) = s.cap) :
    ∃ t outs, runEvents (samples.map sampleEvent) s = some (t, outs) ∧
      outs.map Outputs.frameFull = List.replicate (5 * blocks + 4) false ++ [true] ∧
      t.cursor = 0 ∧ t.phase = 0 ∧ t.byteCount.toNat = (s.byteCount.toNat + s.cap) % 2 ^ 32 := by
  induction blocks generalizing s samples with
  | zero =>
    obtain ⟨env, block, t, rest, ht, -, hrest, -, hrun⟩ := runEvents_first_block hs hp (by omega) hr
    obtain rfl : rest = [] := List.eq_nil_of_length_eq_zero (by omega)
    obtain ⟨hcursor, hcount, hfull⟩ := blockEffect_full_values hcap ht
    exact ⟨_, _, hrun, by rw [List.map_append, List.map_cons, hfull]; rfl, hcursor, rfl, hcount⟩
  | succ blocks ih =>
    obtain ⟨env, block, t, rest, ht, hinv, hrest, hrem, hrun⟩ := runEvents_first_block hs hp (by omega) hr
    have hnot : s.cursor.toNat + numAxes < s.cap := by
      simp only [numAxes] at hcap ⊢
      omega
    obtain ⟨hcursor, hcount, htcap, hout⟩ := blockEffect_not_full_values hs.params_legal hnot ht
    obtain ⟨u, outs, hrun', hfull, hcursor', hphase, hcount'⟩ := ih hinv rfl (by omega) hrem (by
      change t.cursor.toNat + numAxes * (blocks + 1) = t.cap
      rw [hcursor, htcap, ← hcap, Nat.mul_succ numAxes (blocks + 1)]
      omega)
    rw [hrun'] at hrun
    refine ⟨u, _, hrun, ?_, hcursor', hphase, ?_⟩
    · rw [List.map_append, List.map_cons, hfull, hout, show 5 * (blocks + 1) + 4 = 5 + (5 * blocks + 4) by omega,
        List.replicate_add 5 (5 * blocks + 4)]
      rfl
    · rw [hcount']
      change (t.byteCount.toNat + t.cap) % 2 ^ 32 = _
      rw [hcount, htcap]

/-- Settles O54: CAP is SAMPLE_RATE triplets, one for each block of five. -/
theorem frameLengthLaw : Obligations.FrameLengthLaw := by
  intro s samples hs hcursor hp hlen hr
  obtain ⟨hrate, -, -, -⟩ := hs.params_legal
  obtain ⟨blocks, hblocks⟩ : ∃ blocks, s.params.sampleRate = blocks + 1 := ⟨s.params.sampleRate - 1, by omega⟩
  have hcap : s.cursor.toNat + numAxes * (blocks + 1) = s.cap := by
    rw [hcursor, State.cap, Params.cap, hblocks, Nat.mul_comm]
    exact Nat.zero_add _
  obtain ⟨t, outs, hrun, hfull, hrest⟩ := runEvents_blocks_to_cap blocks hs hp (hblocks ▸ hlen) hr hcap
  refine ⟨t, outs, hrun, ?_, hrest⟩
  rw [hfull, hblocks]
  rfl

/-! ### The batch-level view (R110, R111) -/

theorem batchEffect_of_remainder {samples : List (Env × RawSample)} (h : samples.length < 5) (s : State) :
    batchEffect samples s = some (s, samples.map fun _ => .zero) := by
  match samples, h with
  | [], _ => rfl
  | [_], _ => rfl
  | [_, _], _ => rfl
  | [_, _, _], _ => rfl
  | [_, _, _, _], _ => rfl

theorem batchEffect_of_block {s t : State} (a b c d e : Env × RawSample)
    (ht : blockEffect e.1 ⟨a.2, b.2, c.2, d.2, e.2⟩ s = some t) (rest : List (Env × RawSample)) :
    batchEffect ([a, b, c, d, e] ++ rest) s =
      (batchEffect rest t).map fun r => (r.1, List.replicate 4 .zero ++ t.out :: r.2) := by
  change batchEffect (a :: b :: c :: d :: e :: rest) s = _
  rw [batchEffect, ht]

/-- A block does not see the batch bookkeeping, the levels before it or the outputs of earlier steps. -/
theorem SameButBatch.blockEffect {u s t : State} (h : SameButBatch u s) (hc : s.cursor.toNat + numAxes ≤ s.cap)
    {env : Env} {block : Window} (ht : blockEffect env block s = some t) :
    ∃ v, blockEffect env block u = some v ∧ t = v.withBatch s.win s.phase s.rem := by
  have hfields : s.params = u.params ∧ s.cursor = u.cursor := by
    rw [h]
    exact ⟨rfl, rfl⟩
  obtain ⟨hparams, hcursor⟩ := hfields
  have hcu : u.cursor.toNat + numAxes ≤ u.cap := by
    rw [State.cap, ← hparams, ← hcursor]
    exact hc
  rw [blockEffect_of_fits hc, h.quiet_withEnv, (withBatch_frameBlind _ _ _).absorb, hparams] at ht
  exact ⟨_, blockEffect_of_fits hcu env block, (Option.some.inj ht).symm⟩

/-- A run of all of a batch's samples against its blocks in order, from states that agree but for the batch. -/
theorem runEvents_batchEffect (blocks : Nat) {u s : State} {samples : List (Env × RawSample)}
    (hsame : SameButBatch u s) (hs : s.Inv) (hp : s.phase = 0) (hblocks : samples.length / 5 = blocks)
    (hr : s.rem.toNat = samples.length) :
    ∃ t v outs, runEvents (samples.map sampleEvent) s = some (t, outs) ∧ batchEffect samples u = some (v, outs) ∧
      SameButBatch v t ∧ t.rem = 0 ∧ t.phase.val = samples.length % 5 := by
  induction blocks generalizing u s samples with
  | zero =>
    have hshort : s.phase.val + samples.length ≤ 4 := by
      rw [hp]
      change 0 + samples.length ≤ 4
      omega
    have hrun := runEvents_collect samples [] hshort hr.ge
    obtain ⟨hsame', hphase, hrem⟩ := collect_values samples hsame hshort hr.ge
    rw [List.append_nil] at hrun
    refine ⟨_, u, _, hrun, ?_, hsame', ?_, ?_⟩
    · rw [batchEffect_of_remainder (by omega), List.append_nil]
    · exact BitVec.eq_of_toNat_eq (hrem.trans (by rw [hr, Nat.sub_self]; rfl))
    · rw [hphase, hp, Nat.mod_eq_of_lt (by omega)]
      exact Nat.zero_add _
  | succ blocks ih =>
    obtain ⟨a, b, c, d, e, rest, rfl⟩ := exists_five_append (l := samples) (by omega)
    have hcount : ([a, b, c, d, e] ++ rest).length = rest.length + 5 := rfl
    have hrem : 5 ≤ s.rem.toNat := by omega
    have ht := blockEffect_of_fits hs.cursor_in e.1 ⟨a.2, b.2, c.2, d.2, e.2⟩
    have hrun := runEvents_five hp hrem hs.cursor_in a b c d e ht (rest.map sampleEvent)
    have hinv := hs.blockEffect ht ⟨a.2, b.2, c.2, d.2, e.2⟩ 0 (s.rem - 5)
    obtain ⟨v, hv, hvt⟩ := hsame.blockEffect hs.cursor_in ht
    rw [hvt] at hrun hinv
    have hsame' := ((SameButBatch.refl v).withBatch s.win s.phase s.rem).withBatch
      ⟨a.2, b.2, c.2, d.2, e.2⟩ 0 (s.rem - 5)
    obtain ⟨t', v', outs, hrun', heffect, hsame', hrem', hphase'⟩ := ih (samples := rest) hsame' hinv rfl (by omega)
      ((toNat_sub_five hrem).trans (by omega))
    have hbatch := batchEffect_of_block a b c d e hv rest
    rw [hrun', ← List.map_append] at hrun
    rw [heffect] at hbatch
    exact ⟨t', v', _, hrun, hbatch, hsame', hrem', by rw [hphase', hcount, Nat.add_mod_right]⟩

/-- Settles O55: BATCH opens the batch and nothing else; then each block of five samples does what the block does, and
the remainder does nothing (`runEvents_batchEffect`). -/
theorem batchLevelView : Obligations.BatchLevelView := by
  intro env samples s hs hlen
  have hopen := runEvents_cons_of_next (exec_batch (BitVec.ofNat 32 samples.length) (s.withEnv env))
    (samples.map sampleEvent)
  have hrem : (BitVec.ofNat 32 samples.length).toNat = samples.length := by
    rw [BitVec.toNat_ofNat, Nat.mod_eq_of_lt hlen]
  obtain ⟨t, v, outs, hrun, heffect, hsame, hempty, hphase⟩ :=
    runEvents_batchEffect _ (u := s) (s := (s.withEnv env).quiet.openBatch (BitVec.ofNat 32 samples.length)) rfl
      { (hs.withEnv env).quiet with } rfl rfl hrem
  rw [hrun] at hopen
  exact ⟨t, v, outs, hopen, heffect, hsame.sameProduct, hempty, hphase⟩

end Sys2Proof.Machine
end
